-- ==== Sys2Proof/Word.lean ====
section
/-! DEFINITION. The word types of the machine: bytes, instruction words, doublewords (R13), and register numbers (R40). -/
namespace Sys2Proof

/-- A byte is 8 bits (R13). -/
abbrev Byte := BitVec 8

/-- A word is 32 bits (R13): an instruction word, CR or FPSCR. -/
abbrev Word := BitVec 32

/-- A doubleword is 64 bits (R13): a GPR, an FPR, LR, CTR, XER or an effective address. -/
abbrev DWord := BitVec 64

/-- The number of a general or floating-point register, 0 to 31 (R40). -/
abbrev Reg := BitVec 5

/-- The number of a CR bit or an FPSCR bit, 0 to 31, 0 the leftmost (R14, R170). -/
abbrev BitNum := BitVec 5

/-- The number of a 4-bit field of CR or FPSCR, 0 to 7 (R15). -/
abbrev FieldNum := BitVec 3

end Sys2Proof
end

