-- ==== Sys2Proof/Machine/Bits.lean ====
section
/-! DEFINITION. Bits and fields in the source's numbering: bit 0 is the most significant bit (R14). -/
namespace Sys2Proof.Machine

/-- Bit `p` of `v`, bit 0 leftmost (R14, R17 `v[p]`). -/
def bitAt {w : Nat} (v : BitVec w) (p : Nat) : Bool := v.getMsbD p

/-- The `n` bits of `v` that start at bit `p` (R17 `v[p:p+n-1]`). -/
def fld {w : Nat} (v : BitVec w) (p n : Nat) : BitVec n := v.extractLsb' (w - p - n) n

/-- The `w`-bit value whose only 1-bits are the `n` bits that start at bit `p`. -/
def ones (w p n : Nat) : BitVec w := (BitVec.allOnes n).setWidth w <<< (w - p - n)

/-- `v` with the `n` bits that start at bit `p` replaced by `x` (R17 `v[p:p+n-1] <- x`). -/
def setFld {w n : Nat} (v : BitVec w) (p : Nat) (x : BitVec n) : BitVec w :=
  (v &&& ~~~ ones w p n) ||| (x.setWidth w <<< (w - p - n))

/-- `v` with bit `p` replaced by `b` (R17 `v[p] <- b`). -/
def setBitAt {w : Nat} (v : BitVec w) (p : Nat) (b : Bool) : BitVec w := setFld v p (BitVec.ofBool b)

/-- One bit as a 1-bit field of an instruction. -/
def bit (b : Bool) : BitVec 1 := BitVec.ofBool b

/-- `sext_64` of R17. -/
def sext64 {w : Nat} (v : BitVec w) : DWord := v.signExtend 64

/-- `zext_64` of R17. -/
def zext64 {w : Nat} (v : BitVec w) : DWord := v.setWidth 64

/-- The low-order word `x[32:63]` of a doubleword. -/
def loWord (x : DWord) : Word := x.setWidth 32

/-- The high-order word `x[0:31]` of a doubleword. -/
def hiWord (x : DWord) : Word := x.extractLsb' 32 32

end Sys2Proof.Machine
end

