-- ==== Sys2Proof/Syntax.lean ====
section
/-! DEFINITION. The instructions: one constructor per row of spec/opcode_table.json, with the fields its rule gives it.
Reserved fields carry no operand (R153); the SPR number and the split shift and mask fields are in their true order
(R172, R173); hint fields are kept (R223, R224). The rows of Books II and III have no fields: no source gives them (R204). -/
namespace Sys2Proof

/-- One instruction of the opcode table (R210, R204). -/
inductive Instr where
  /-- `b / ba / bl / bla target_addr` (R230). -/
  | b (li : BitVec 24) (aa lk : Bool)
  /-- `bc / bca / bcl / bcla BO,BI,target_addr` (R231). -/
  | bc (bo : BitVec 5) (bi : BitNum) (bd : BitVec 14) (aa lk : Bool)
  /-- `bclr / bclrl BO,BI,BH` (R232). -/
  | bclr (bo : BitVec 5) (bi : BitNum) (bh : BitVec 2) (lk : Bool)
  /-- `bcctr / bcctrl BO,BI,BH` (R233). -/
  | bcctr (bo : BitVec 5) (bi : BitNum) (bh : BitVec 2) (lk : Bool)
  /-- `sc LEV` (R234). -/
  | sc (lev : BitVec 7) (one : Bool)
  /-- `crand BT,BA,BB` (R241). -/
  | crand (bt ba bb : BitNum)
  /-- `cror BT,BA,BB` (R242). -/
  | cror (bt ba bb : BitNum)
  /-- `crxor BT,BA,BB` (R243). -/
  | crxor (bt ba bb : BitNum)
  /-- `crnand BT,BA,BB` (R244). -/
  | crnand (bt ba bb : BitNum)
  /-- `crnor BT,BA,BB` (R245). -/
  | crnor (bt ba bb : BitNum)
  /-- `creqv BT,BA,BB` (R246). -/
  | creqv (bt ba bb : BitNum)
  /-- `crandc BT,BA,BB` (R247). -/
  | crandc (bt ba bb : BitNum)
  /-- `crorc BT,BA,BB` (R248). -/
  | crorc (bt ba bb : BitNum)
  /-- `mcrf BF,BFA` (R249). -/
  | mcrf (bf bfa : FieldNum)
  /-- `lbz RT,D(RA)` (R270). -/
  | lbz (rt : Reg) (d : BitVec 16) (ra : Reg)
  /-- `lbzx RT,RA,RB` (R271). -/
  | lbzx (rt ra rb : Reg)
  /-- `lbzu RT,D(RA)` (R272). -/
  | lbzu (rt : Reg) (d : BitVec 16) (ra : Reg)
  /-- `lbzux RT,RA,RB` (R273). -/
  | lbzux (rt ra rb : Reg)
  /-- `lhz RT,D(RA)` (R274). -/
  | lhz (rt : Reg) (d : BitVec 16) (ra : Reg)
  /-- `lhzx RT,RA,RB` (R275). -/
  | lhzx (rt ra rb : Reg)
  /-- `lhzu RT,D(RA)` (R276). -/
  | lhzu (rt : Reg) (d : BitVec 16) (ra : Reg)
  /-- `lhzux RT,RA,RB` (R277). -/
  | lhzux (rt ra rb : Reg)
  /-- `lha RT,D(RA)` (R278). -/
  | lha (rt : Reg) (d : BitVec 16) (ra : Reg)
  /-- `lhax RT,RA,RB` (R279). -/
  | lhax (rt ra rb : Reg)
  /-- `lhau RT,D(RA)` (R280). -/
  | lhau (rt : Reg) (d : BitVec 16) (ra : Reg)
  /-- `lhaux RT,RA,RB` (R281). -/
  | lhaux (rt ra rb : Reg)
  /-- `lwz RT,D(RA)` (R282). -/
  | lwz (rt : Reg) (d : BitVec 16) (ra : Reg)
  /-- `lwzx RT,RA,RB` (R283). -/
  | lwzx (rt ra rb : Reg)
  /-- `lwzu RT,D(RA)` (R284). -/
  | lwzu (rt : Reg) (d : BitVec 16) (ra : Reg)
  /-- `lwzux RT,RA,RB` (R285). -/
  | lwzux (rt ra rb : Reg)
  /-- `lwa RT,DS(RA)` (R286). -/
  | lwa (rt : Reg) (ds : BitVec 14) (ra : Reg)
  /-- `lwax RT,RA,RB` (R287). -/
  | lwax (rt ra rb : Reg)
  /-- `lwaux RT,RA,RB` (R288). -/
  | lwaux (rt ra rb : Reg)
  /-- `ld RT,DS(RA)` (R289). -/
  | ld (rt : Reg) (ds : BitVec 14) (ra : Reg)
  /-- `ldx RT,RA,RB` (R290). -/
  | ldx (rt ra rb : Reg)
  /-- `ldu RT,DS(RA)` (R291). -/
  | ldu (rt : Reg) (ds : BitVec 14) (ra : Reg)
  /-- `ldux RT,RA,RB` (R292). -/
  | ldux (rt ra rb : Reg)
  /-- `stb RS,D(RA)` (R296). -/
  | stb (rs : Reg) (d : BitVec 16) (ra : Reg)
  /-- `stbx RS,RA,RB` (R297). -/
  | stbx (rs ra rb : Reg)
  /-- `stbu RS,D(RA)` (R298). -/
  | stbu (rs : Reg) (d : BitVec 16) (ra : Reg)
  /-- `stbux RS,RA,RB` (R299). -/
  | stbux (rs ra rb : Reg)
  /-- `sth RS,D(RA)` (R300). -/
  | sth (rs : Reg) (d : BitVec 16) (ra : Reg)
  /-- `sthx RS,RA,RB` (R301). -/
  | sthx (rs ra rb : Reg)
  /-- `sthu RS,D(RA)` (R302). -/
  | sthu (rs : Reg) (d : BitVec 16) (ra : Reg)
  /-- `sthux RS,RA,RB` (R303). -/
  | sthux (rs ra rb : Reg)
  /-- `stw RS,D(RA)` (R304). -/
  | stw (rs : Reg) (d : BitVec 16) (ra : Reg)
  /-- `stwx RS,RA,RB` (R305). -/
  | stwx (rs ra rb : Reg)
  /-- `stwu RS,D(RA)` (R306). -/
  | stwu (rs : Reg) (d : BitVec 16) (ra : Reg)
  /-- `stwux RS,RA,RB` (R307). -/
  | stwux (rs ra rb : Reg)
  /-- `std RS,DS(RA)` (R308). -/
  | std (rs : Reg) (ds : BitVec 14) (ra : Reg)
  /-- `stdx RS,RA,RB` (R309). -/
  | stdx (rs ra rb : Reg)
  /-- `stdu RS,DS(RA)` (R310). -/
  | stdu (rs : Reg) (ds : BitVec 14) (ra : Reg)
  /-- `stdux RS,RA,RB` (R311). -/
  | stdux (rs ra rb : Reg)
  /-- `lhbrx RT,RA,RB` (R314). -/
  | lhbrx (rt ra rb : Reg)
  /-- `lwbrx RT,RA,RB` (R315). -/
  | lwbrx (rt ra rb : Reg)
  /-- `sthbrx RS,RA,RB` (R316). -/
  | sthbrx (rs ra rb : Reg)
  /-- `stwbrx RS,RA,RB` (R317). -/
  | stwbrx (rs ra rb : Reg)
  /-- `lmw RT,D(RA)` (R320). -/
  | lmw (rt : Reg) (d : BitVec 16) (ra : Reg)
  /-- `stmw RS,D(RA)` (R321). -/
  | stmw (rs : Reg) (d : BitVec 16) (ra : Reg)
  /-- `lswi RT,RA,NB` (R330). -/
  | lswi (rt ra : Reg) (nb : BitVec 5)
  /-- `lswx RT,RA,RB` (R331). -/
  | lswx (rt ra rb : Reg)
  /-- `stswi RS,RA,NB` (R332). -/
  | stswi (rs ra : Reg) (nb : BitVec 5)
  /-- `stswx RS,RA,RB` (R333). -/
  | stswx (rs ra rb : Reg)
  /-- `addi RT,RA,SI` (R355). -/
  | addi (rt ra : Reg) (si : BitVec 16)
  /-- `addis RT,RA,SI` (R356). -/
  | addis (rt ra : Reg) (si : BitVec 16)
  /-- `add[o][.] RT,RA,RB` (R357). -/
  | add (rt ra rb : Reg) (oe rc : Bool)
  /-- `subf[o][.] RT,RA,RB` (R358). -/
  | subf (rt ra rb : Reg) (oe rc : Bool)
  /-- `addic RT,RA,SI` (R359). -/
  | addic (rt ra : Reg) (si : BitVec 16)
  /-- `addic. RT,RA,SI` (R360). -/
  | addicRc (rt ra : Reg) (si : BitVec 16)
  /-- `subfic RT,RA,SI` (R361). -/
  | subfic (rt ra : Reg) (si : BitVec 16)
  /-- `addc[o][.] RT,RA,RB` (R362). -/
  | addc (rt ra rb : Reg) (oe rc : Bool)
  /-- `subfc[o][.] RT,RA,RB` (R363). -/
  | subfc (rt ra rb : Reg) (oe rc : Bool)
  /-- `adde[o][.] RT,RA,RB` (R364). -/
  | adde (rt ra rb : Reg) (oe rc : Bool)
  /-- `subfe[o][.] RT,RA,RB` (R365). -/
  | subfe (rt ra rb : Reg) (oe rc : Bool)
  /-- `addme[o][.] RT,RA` (R366). -/
  | addme (rt ra : Reg) (oe rc : Bool)
  /-- `subfme[o][.] RT,RA` (R367). -/
  | subfme (rt ra : Reg) (oe rc : Bool)
  /-- `addze[o][.] RT,RA` (R368). -/
  | addze (rt ra : Reg) (oe rc : Bool)
  /-- `subfze[o][.] RT,RA` (R369). -/
  | subfze (rt ra : Reg) (oe rc : Bool)
  /-- `neg[o][.] RT,RA` (R370). -/
  | neg (rt ra : Reg) (oe rc : Bool)
  /-- `mulli RT,RA,SI` (R371). -/
  | mulli (rt ra : Reg) (si : BitVec 16)
  /-- `mulld[o][.] RT,RA,RB` (R372). -/
  | mulld (rt ra rb : Reg) (oe rc : Bool)
  /-- `mullw[o][.] RT,RA,RB` (R373). -/
  | mullw (rt ra rb : Reg) (oe rc : Bool)
  /-- `mulhd[.] RT,RA,RB` (R374). -/
  | mulhd (rt ra rb : Reg) (rc : Bool)
  /-- `mulhw[.] RT,RA,RB` (R375). -/
  | mulhw (rt ra rb : Reg) (rc : Bool)
  /-- `mulhdu[.] RT,RA,RB` (R376). -/
  | mulhdu (rt ra rb : Reg) (rc : Bool)
  /-- `mulhwu[.] RT,RA,RB` (R377). -/
  | mulhwu (rt ra rb : Reg) (rc : Bool)
  /-- `divd[o][.] RT,RA,RB` (R378). -/
  | divd (rt ra rb : Reg) (oe rc : Bool)
  /-- `divw[o][.] RT,RA,RB` (R379). -/
  | divw (rt ra rb : Reg) (oe rc : Bool)
  /-- `divdu[o][.] RT,RA,RB` (R380). -/
  | divdu (rt ra rb : Reg) (oe rc : Bool)
  /-- `divwu[o][.] RT,RA,RB` (R381). -/
  | divwu (rt ra rb : Reg) (oe rc : Bool)
  /-- `cmpi BF,L,RA,SI` (R391). -/
  | cmpi (bf : FieldNum) (l : Bool) (ra : Reg) (si : BitVec 16)
  /-- `cmp BF,L,RA,RB` (R392). -/
  | cmp (bf : FieldNum) (l : Bool) (ra rb : Reg)
  /-- `cmpli BF,L,RA,UI` (R393). -/
  | cmpli (bf : FieldNum) (l : Bool) (ra : Reg) (ui : BitVec 16)
  /-- `cmpl BF,L,RA,RB` (R394). -/
  | cmpl (bf : FieldNum) (l : Bool) (ra rb : Reg)
  /-- `tdi TO,RA,SI` (R401). -/
  | tdi (sel : BitVec 5) (ra : Reg) (si : BitVec 16)
  /-- `twi TO,RA,SI` (R402). -/
  | twi (sel : BitVec 5) (ra : Reg) (si : BitVec 16)
  /-- `td TO,RA,RB` (R403). -/
  | td (sel : BitVec 5) (ra rb : Reg)
  /-- `tw TO,RA,RB` (R404). -/
  | tw (sel : BitVec 5) (ra rb : Reg)
  /-- `andi. RA,RS,UI` (R421). -/
  | andiRc (ra rs : Reg) (ui : BitVec 16)
  /-- `andis. RA,RS,UI` (R422). -/
  | andisRc (ra rs : Reg) (ui : BitVec 16)
  /-- `ori RA,RS,UI` (R423). -/
  | ori (ra rs : Reg) (ui : BitVec 16)
  /-- `oris RA,RS,UI` (R424). -/
  | oris (ra rs : Reg) (ui : BitVec 16)
  /-- `xori RA,RS,UI` (R425). -/
  | xori (ra rs : Reg) (ui : BitVec 16)
  /-- `xoris RA,RS,UI` (R426). -/
  | xoris (ra rs : Reg) (ui : BitVec 16)
  /-- `and[.] RA,RS,RB` (R427). -/
  | and (ra rs rb : Reg) (rc : Bool)
  /-- `or[.] RA,RS,RB` (R428). -/
  | or (ra rs rb : Reg) (rc : Bool)
  /-- `xor[.] RA,RS,RB` (R429). -/
  | xor (ra rs rb : Reg) (rc : Bool)
  /-- `nand[.] RA,RS,RB` (R430). -/
  | nand (ra rs rb : Reg) (rc : Bool)
  /-- `nor[.] RA,RS,RB` (R431). -/
  | nor (ra rs rb : Reg) (rc : Bool)
  /-- `eqv[.] RA,RS,RB` (R432). -/
  | eqv (ra rs rb : Reg) (rc : Bool)
  /-- `andc[.] RA,RS,RB` (R433). -/
  | andc (ra rs rb : Reg) (rc : Bool)
  /-- `orc[.] RA,RS,RB` (R434). -/
  | orc (ra rs rb : Reg) (rc : Bool)
  /-- `extsb[.] RA,RS` (R435). -/
  | extsb (ra rs : Reg) (rc : Bool)
  /-- `extsh[.] RA,RS` (R436). -/
  | extsh (ra rs : Reg) (rc : Bool)
  /-- `extsw[.] RA,RS` (R437). -/
  | extsw (ra rs : Reg) (rc : Bool)
  /-- `cntlzd[.] RA,RS` (R438). -/
  | cntlzd (ra rs : Reg) (rc : Bool)
  /-- `cntlzw[.] RA,RS` (R439). -/
  | cntlzw (ra rs : Reg) (rc : Bool)
  /-- `rldicl[.] RA,RS,SH,MB` (R446). -/
  | rldicl (ra rs : Reg) (sh mb : BitVec 6) (rc : Bool)
  /-- `rldicr[.] RA,RS,SH,ME` (R447). -/
  | rldicr (ra rs : Reg) (sh me : BitVec 6) (rc : Bool)
  /-- `rldic[.] RA,RS,SH,MB` (R448). -/
  | rldic (ra rs : Reg) (sh mb : BitVec 6) (rc : Bool)
  /-- `rlwinm[.] RA,RS,SH,MB,ME` (R449). -/
  | rlwinm (ra rs : Reg) (sh mb me : BitVec 5) (rc : Bool)
  /-- `rldcl[.] RA,RS,RB,MB` (R450). -/
  | rldcl (ra rs rb : Reg) (mb : BitVec 6) (rc : Bool)
  /-- `rldcr[.] RA,RS,RB,ME` (R451). -/
  | rldcr (ra rs rb : Reg) (me : BitVec 6) (rc : Bool)
  /-- `rlwnm[.] RA,RS,RB,MB,ME` (R452). -/
  | rlwnm (ra rs rb : Reg) (mb me : BitVec 5) (rc : Bool)
  /-- `rldimi[.] RA,RS,SH,MB` (R453). -/
  | rldimi (ra rs : Reg) (sh mb : BitVec 6) (rc : Bool)
  /-- `rlwimi[.] RA,RS,SH,MB,ME` (R454). -/
  | rlwimi (ra rs : Reg) (sh mb me : BitVec 5) (rc : Bool)
  /-- `sld[.] RA,RS,RB` (R461). -/
  | sld (ra rs rb : Reg) (rc : Bool)
  /-- `slw[.] RA,RS,RB` (R462). -/
  | slw (ra rs rb : Reg) (rc : Bool)
  /-- `srd[.] RA,RS,RB` (R463). -/
  | srd (ra rs rb : Reg) (rc : Bool)
  /-- `srw[.] RA,RS,RB` (R464). -/
  | srw (ra rs rb : Reg) (rc : Bool)
  /-- `sradi[.] RA,RS,SH` (R465). -/
  | sradi (ra rs : Reg) (sh : BitVec 6) (rc : Bool)
  /-- `srawi[.] RA,RS,SH` (R466). -/
  | srawi (ra rs : Reg) (sh : BitVec 5) (rc : Bool)
  /-- `srad[.] RA,RS,RB` (R467). -/
  | srad (ra rs rb : Reg) (rc : Bool)
  /-- `sraw[.] RA,RS,RB` (R468). -/
  | sraw (ra rs rb : Reg) (rc : Bool)
  /-- `mtspr SPR,RS` (R501). -/
  | mtspr (spr : BitVec 10) (rs : Reg)
  /-- `mfspr RT,SPR` (R502). -/
  | mfspr (rt : Reg) (spr : BitVec 10)
  /-- `mtcrf FXM,RS` (R503). -/
  | mtcrf (fxm : BitVec 8) (rs : Reg)
  /-- `mfcr RT` (R504). -/
  | mfcr (rt : Reg)
  /-- `mtocrf FXM,RS` (R505). -/
  | mtocrf (fxm : BitVec 8) (rs : Reg)
  /-- `mfocrf RT,FXM` (R506). -/
  | mfocrf (rt : Reg) (fxm : BitVec 8)
  /-- `mcrxr BF` (R507). -/
  | mcrxr (bf : FieldNum)
  /-- `lfs FRT,D(RA)` (R622). -/
  | lfs (frt : Reg) (d : BitVec 16) (ra : Reg)
  /-- `lfsx FRT,RA,RB` (R623). -/
  | lfsx (frt ra rb : Reg)
  /-- `lfsu FRT,D(RA)` (R624). -/
  | lfsu (frt : Reg) (d : BitVec 16) (ra : Reg)
  /-- `lfsux FRT,RA,RB` (R625). -/
  | lfsux (frt ra rb : Reg)
  /-- `lfd FRT,D(RA)` (R626). -/
  | lfd (frt : Reg) (d : BitVec 16) (ra : Reg)
  /-- `lfdx FRT,RA,RB` (R627). -/
  | lfdx (frt ra rb : Reg)
  /-- `lfdu FRT,D(RA)` (R628). -/
  | lfdu (frt : Reg) (d : BitVec 16) (ra : Reg)
  /-- `lfdux FRT,RA,RB` (R629). -/
  | lfdux (frt ra rb : Reg)
  /-- `stfs FRS,D(RA)` (R632). -/
  | stfs (frs : Reg) (d : BitVec 16) (ra : Reg)
  /-- `stfsx FRS,RA,RB` (R633). -/
  | stfsx (frs ra rb : Reg)
  /-- `stfsu FRS,D(RA)` (R634). -/
  | stfsu (frs : Reg) (d : BitVec 16) (ra : Reg)
  /-- `stfsux FRS,RA,RB` (R635). -/
  | stfsux (frs ra rb : Reg)
  /-- `stfd FRS,D(RA)` (R636). -/
  | stfd (frs : Reg) (d : BitVec 16) (ra : Reg)
  /-- `stfdx FRS,RA,RB` (R637). -/
  | stfdx (frs ra rb : Reg)
  /-- `stfdu FRS,D(RA)` (R638). -/
  | stfdu (frs : Reg) (d : BitVec 16) (ra : Reg)
  /-- `stfdux FRS,RA,RB` (R639). -/
  | stfdux (frs ra rb : Reg)
  /-- `stfiwx FRS,RA,RB` (R640). -/
  | stfiwx (frs ra rb : Reg)
  /-- `fmr[.] FRT,FRB` (R645). -/
  | fmr (frt frb : Reg) (rc : Bool)
  /-- `fneg[.] FRT,FRB` (R646). -/
  | fneg (frt frb : Reg) (rc : Bool)
  /-- `fabs[.] FRT,FRB` (R647). -/
  | fabs (frt frb : Reg) (rc : Bool)
  /-- `fnabs[.] FRT,FRB` (R648). -/
  | fnabs (frt frb : Reg) (rc : Bool)
  /-- `fadd[.] FRT,FRA,FRB` (R651). -/
  | fadd (frt fra frb : Reg) (rc : Bool)
  /-- `fadds[.] FRT,FRA,FRB` (R652). -/
  | fadds (frt fra frb : Reg) (rc : Bool)
  /-- `fsub[.] FRT,FRA,FRB` (R653). -/
  | fsub (frt fra frb : Reg) (rc : Bool)
  /-- `fsubs[.] FRT,FRA,FRB` (R654). -/
  | fsubs (frt fra frb : Reg) (rc : Bool)
  /-- `fmul[.] FRT,FRA,FRC` (R655). -/
  | fmul (frt fra frc : Reg) (rc : Bool)
  /-- `fmuls[.] FRT,FRA,FRC` (R656). -/
  | fmuls (frt fra frc : Reg) (rc : Bool)
  /-- `fdiv[.] FRT,FRA,FRB` (R657). -/
  | fdiv (frt fra frb : Reg) (rc : Bool)
  /-- `fdivs[.] FRT,FRA,FRB` (R658). -/
  | fdivs (frt fra frb : Reg) (rc : Bool)
  /-- `fmadd[.] FRT,FRA,FRC,FRB` (R661). -/
  | fmadd (frt fra frc frb : Reg) (rc : Bool)
  /-- `fmadds[.] FRT,FRA,FRC,FRB` (R662). -/
  | fmadds (frt fra frc frb : Reg) (rc : Bool)
  /-- `fmsub[.] FRT,FRA,FRC,FRB` (R663). -/
  | fmsub (frt fra frc frb : Reg) (rc : Bool)
  /-- `fmsubs[.] FRT,FRA,FRC,FRB` (R664). -/
  | fmsubs (frt fra frc frb : Reg) (rc : Bool)
  /-- `fnmadd[.] FRT,FRA,FRC,FRB` (R665). -/
  | fnmadd (frt fra frc frb : Reg) (rc : Bool)
  /-- `fnmadds[.] FRT,FRA,FRC,FRB` (R666). -/
  | fnmadds (frt fra frc frb : Reg) (rc : Bool)
  /-- `fnmsub[.] FRT,FRA,FRC,FRB` (R667). -/
  | fnmsub (frt fra frc frb : Reg) (rc : Bool)
  /-- `fnmsubs[.] FRT,FRA,FRC,FRB` (R668). -/
  | fnmsubs (frt fra frc frb : Reg) (rc : Bool)
  /-- `frsp[.] FRT,FRB` (R670). -/
  | frsp (frt frb : Reg) (rc : Bool)
  /-- `fctid[.] FRT,FRB` (R671). -/
  | fctid (frt frb : Reg) (rc : Bool)
  /-- `fctidz[.] FRT,FRB` (R672). -/
  | fctidz (frt frb : Reg) (rc : Bool)
  /-- `fctiw[.] FRT,FRB` (R673). -/
  | fctiw (frt frb : Reg) (rc : Bool)
  /-- `fctiwz[.] FRT,FRB` (R674). -/
  | fctiwz (frt frb : Reg) (rc : Bool)
  /-- `fcfid[.] FRT,FRB` (R675). -/
  | fcfid (frt frb : Reg) (rc : Bool)
  /-- `fcmpu BF,FRA,FRB` (R690). -/
  | fcmpu (bf : FieldNum) (fra frb : Reg)
  /-- `fcmpo BF,FRA,FRB` (R691). -/
  | fcmpo (bf : FieldNum) (fra frb : Reg)
  /-- `mffs[.] FRT` (R696). -/
  | mffs (frt : Reg) (rc : Bool)
  /-- `mcrfs BF,BFA` (R697). -/
  | mcrfs (bf bfa : FieldNum)
  /-- `mtfsfi[.] BF,U` (R698). -/
  | mtfsfi (bf : FieldNum) (u : BitVec 4) (rc : Bool)
  /-- `mtfsf[.] FLM,FRB` (R699). -/
  | mtfsf (flm : BitVec 8) (frb : Reg) (rc : Bool)
  /-- `mtfsb0[.] BT` (R700). -/
  | mtfsb0 (bt : BitNum) (rc : Bool)
  /-- `mtfsb1[.] BT` (R701). -/
  | mtfsb1 (bt : BitNum) (rc : Bool)
  /-- `fsqrt[.] FRT,FRB` (R705). -/
  | fsqrt (frt frb : Reg) (rc : Bool)
  /-- `fsqrts[.] FRT,FRB` (R706). -/
  | fsqrts (frt frb : Reg) (rc : Bool)
  /-- `fres[.] FRT,FRB` (R707). -/
  | fres (frt frb : Reg) (rc : Bool)
  /-- `frsqrte[.] FRT,FRB` (R708). -/
  | frsqrte (frt frb : Reg) (rc : Bool)
  /-- `fsel[.] FRT,FRA,FRC,FRB` (R709). -/
  | fsel (frt fra frc frb : Reg) (rc : Bool)
  /-- `rfid (Book III)` (R204). -/
  | rfid
  /-- `isync (Book II)` (R204). -/
  | isync
  /-- `lwarx (Book II)` (R204). -/
  | lwarx
  /-- `dcbst (Book II)` (R204). -/
  | dcbst
  /-- `mfmsr (Book III)` (R204). -/
  | mfmsr
  /-- `ldarx (Book II)` (R204). -/
  | ldarx
  /-- `dcbf (Book II)` (R204). -/
  | dcbf
  /-- `mtmsr (Book III)` (R204). -/
  | mtmsr
  /-- `stwcx. (Book II)` (R204). -/
  | stwcxRc
  /-- `mtmsrd (Book III)` (R204). -/
  | mtmsrd
  /-- `mtsr (Book III)` (R204). -/
  | mtsr
  /-- `stdcx. (Book II)` (R204). -/
  | stdcxRc
  /-- `mtsrin (Book III)` (R204). -/
  | mtsrin
  /-- `dcbtst (Book II)` (R204). -/
  | dcbtst
  /-- `dcbt (Book II)` (R204). -/
  | dcbt
  /-- `tlbie (Book III)` (R204). -/
  | tlbie
  /-- `eciwx (Book II)` (R204). -/
  | eciwx
  /-- `tlbia (Book III)` (R204). -/
  | tlbia
  /-- `mftb (Book II)` (R204). -/
  | mftb
  /-- `slbmte (Book III)` (R204). -/
  | slbmte
  /-- `slbie (Book III)` (R204). -/
  | slbie
  /-- `ecowx (Book II)` (R204). -/
  | ecowx
  /-- `slbia (Book III)` (R204). -/
  | slbia
  /-- `tlbsync (Book III)` (R204). -/
  | tlbsync
  /-- `mfsr (Book III)` (R204). -/
  | mfsr
  /-- `sync (Book II)` (R204). -/
  | sync
  /-- `mfsrin (Book III)` (R204). -/
  | mfsrin
  /-- `slbmfev (Book III)` (R204). -/
  | slbmfev
  /-- `eieio (Book II)` (R204). -/
  | eieio
  /-- `slbmfee (Book III)` (R204). -/
  | slbmfee
  /-- `icbi (Book II)` (R204). -/
  | icbi
  /-- `dcbz (Book II)` (R204). -/
  | dcbz
  deriving DecidableEq, Repr

end Sys2Proof
end

