-- ==== Sys2Proof/Decode.lean ====
section
/-! DEFINITION. Decoding an instruction word by the opcode table of spec/30_encoding.md (R180 to R188, R204), total, with the
class of every rejected word (R202, R203, R206), and the encoder written from the same format diagrams (R155 to R169). -/
namespace Sys2Proof

open Sys2Proof.Machine (fld bitAt bit)

/-- Why bytes are no instruction. -/
inductive DecodeError where
  /-- Fewer than four bytes: every instruction has four (R150). -/
  | truncated
  /-- The word is in the Illegal class (R202, R205). -/
  | illegalClass
  /-- The word is in the Reserved class, none of which is implemented (R203, R206, D15). -/
  | reservedClass
  /-- The word has the opcodes of an instruction of the Defined class, in an invalid form that no row covers (R200, R208). -/
  | invalidForm
  deriving DecidableEq, Repr

/-- One row of spec/opcode_table.json: the bits that select the instruction, and its fields pulled out of the word. -/
structure Row where
  mask : Word
  pat : Word
  build : Word → Instr

/-- A word is the row's instruction when it has the row's opcode bits; reserved bits are outside the mask (R153, R180). -/
def Row.covers (r : Row) (w : Word) : Bool := w &&& r.mask == r.pat

/-- The rows of spec/40_branch.md. -/
def rowsBranch : List Row := [
  ⟨0xFC000000#32, 0x48000000#32, fun w => .b (fld w 6 24) (bitAt w 30) (bitAt w 31)⟩,
  ⟨0xFC000000#32, 0x40000000#32, fun w => .bc (fld w 6 5) (fld w 11 5) (fld w 16 14) (bitAt w 30) (bitAt w 31)⟩,
  ⟨0xFC0007FE#32, 0x4C000020#32, fun w => .bclr (fld w 6 5) (fld w 11 5) (fld w 19 2) (bitAt w 31)⟩,
  ⟨0xFC0007FE#32, 0x4C000420#32, fun w => .bcctr (fld w 6 5) (fld w 11 5) (fld w 19 2) (bitAt w 31)⟩,
  ⟨0xFC000000#32, 0x44000000#32, fun w => .sc (fld w 20 7) (bitAt w 30)⟩,
  ⟨0xFC0007FE#32, 0x4C000202#32, fun w => .crand (fld w 6 5) (fld w 11 5) (fld w 16 5)⟩,
  ⟨0xFC0007FE#32, 0x4C000382#32, fun w => .cror (fld w 6 5) (fld w 11 5) (fld w 16 5)⟩,
  ⟨0xFC0007FE#32, 0x4C000182#32, fun w => .crxor (fld w 6 5) (fld w 11 5) (fld w 16 5)⟩,
  ⟨0xFC0007FE#32, 0x4C0001C2#32, fun w => .crnand (fld w 6 5) (fld w 11 5) (fld w 16 5)⟩,
  ⟨0xFC0007FE#32, 0x4C000042#32, fun w => .crnor (fld w 6 5) (fld w 11 5) (fld w 16 5)⟩,
  ⟨0xFC0007FE#32, 0x4C000242#32, fun w => .creqv (fld w 6 5) (fld w 11 5) (fld w 16 5)⟩,
  ⟨0xFC0007FE#32, 0x4C000102#32, fun w => .crandc (fld w 6 5) (fld w 11 5) (fld w 16 5)⟩,
  ⟨0xFC0007FE#32, 0x4C000342#32, fun w => .crorc (fld w 6 5) (fld w 11 5) (fld w 16 5)⟩,
  ⟨0xFC0007FE#32, 0x4C000000#32, fun w => .mcrf (fld w 6 3) (fld w 11 3)⟩]

/-- The rows of spec/41_fx_load_store.md. -/
def rowsStorage : List Row := [
  ⟨0xFC000000#32, 0x88000000#32, fun w => .lbz (fld w 6 5) (fld w 16 16) (fld w 11 5)⟩,
  ⟨0xFC0007FE#32, 0x7C0000AE#32, fun w => .lbzx (fld w 6 5) (fld w 11 5) (fld w 16 5)⟩,
  ⟨0xFC000000#32, 0x8C000000#32, fun w => .lbzu (fld w 6 5) (fld w 16 16) (fld w 11 5)⟩,
  ⟨0xFC0007FE#32, 0x7C0000EE#32, fun w => .lbzux (fld w 6 5) (fld w 11 5) (fld w 16 5)⟩,
  ⟨0xFC000000#32, 0xA0000000#32, fun w => .lhz (fld w 6 5) (fld w 16 16) (fld w 11 5)⟩,
  ⟨0xFC0007FE#32, 0x7C00022E#32, fun w => .lhzx (fld w 6 5) (fld w 11 5) (fld w 16 5)⟩,
  ⟨0xFC000000#32, 0xA4000000#32, fun w => .lhzu (fld w 6 5) (fld w 16 16) (fld w 11 5)⟩,
  ⟨0xFC0007FE#32, 0x7C00026E#32, fun w => .lhzux (fld w 6 5) (fld w 11 5) (fld w 16 5)⟩,
  ⟨0xFC000000#32, 0xA8000000#32, fun w => .lha (fld w 6 5) (fld w 16 16) (fld w 11 5)⟩,
  ⟨0xFC0007FE#32, 0x7C0002AE#32, fun w => .lhax (fld w 6 5) (fld w 11 5) (fld w 16 5)⟩,
  ⟨0xFC000000#32, 0xAC000000#32, fun w => .lhau (fld w 6 5) (fld w 16 16) (fld w 11 5)⟩,
  ⟨0xFC0007FE#32, 0x7C0002EE#32, fun w => .lhaux (fld w 6 5) (fld w 11 5) (fld w 16 5)⟩,
  ⟨0xFC000000#32, 0x80000000#32, fun w => .lwz (fld w 6 5) (fld w 16 16) (fld w 11 5)⟩,
  ⟨0xFC0007FE#32, 0x7C00002E#32, fun w => .lwzx (fld w 6 5) (fld w 11 5) (fld w 16 5)⟩,
  ⟨0xFC000000#32, 0x84000000#32, fun w => .lwzu (fld w 6 5) (fld w 16 16) (fld w 11 5)⟩,
  ⟨0xFC0007FE#32, 0x7C00006E#32, fun w => .lwzux (fld w 6 5) (fld w 11 5) (fld w 16 5)⟩,
  ⟨0xFC000003#32, 0xE8000002#32, fun w => .lwa (fld w 6 5) (fld w 16 14) (fld w 11 5)⟩,
  ⟨0xFC0007FE#32, 0x7C0002AA#32, fun w => .lwax (fld w 6 5) (fld w 11 5) (fld w 16 5)⟩,
  ⟨0xFC0007FE#32, 0x7C0002EA#32, fun w => .lwaux (fld w 6 5) (fld w 11 5) (fld w 16 5)⟩,
  ⟨0xFC000003#32, 0xE8000000#32, fun w => .ld (fld w 6 5) (fld w 16 14) (fld w 11 5)⟩,
  ⟨0xFC0007FE#32, 0x7C00002A#32, fun w => .ldx (fld w 6 5) (fld w 11 5) (fld w 16 5)⟩,
  ⟨0xFC000003#32, 0xE8000001#32, fun w => .ldu (fld w 6 5) (fld w 16 14) (fld w 11 5)⟩,
  ⟨0xFC0007FE#32, 0x7C00006A#32, fun w => .ldux (fld w 6 5) (fld w 11 5) (fld w 16 5)⟩,
  ⟨0xFC000000#32, 0x98000000#32, fun w => .stb (fld w 6 5) (fld w 16 16) (fld w 11 5)⟩,
  ⟨0xFC0007FE#32, 0x7C0001AE#32, fun w => .stbx (fld w 6 5) (fld w 11 5) (fld w 16 5)⟩,
  ⟨0xFC000000#32, 0x9C000000#32, fun w => .stbu (fld w 6 5) (fld w 16 16) (fld w 11 5)⟩,
  ⟨0xFC0007FE#32, 0x7C0001EE#32, fun w => .stbux (fld w 6 5) (fld w 11 5) (fld w 16 5)⟩,
  ⟨0xFC000000#32, 0xB0000000#32, fun w => .sth (fld w 6 5) (fld w 16 16) (fld w 11 5)⟩,
  ⟨0xFC0007FE#32, 0x7C00032E#32, fun w => .sthx (fld w 6 5) (fld w 11 5) (fld w 16 5)⟩,
  ⟨0xFC000000#32, 0xB4000000#32, fun w => .sthu (fld w 6 5) (fld w 16 16) (fld w 11 5)⟩,
  ⟨0xFC0007FE#32, 0x7C00036E#32, fun w => .sthux (fld w 6 5) (fld w 11 5) (fld w 16 5)⟩,
  ⟨0xFC000000#32, 0x90000000#32, fun w => .stw (fld w 6 5) (fld w 16 16) (fld w 11 5)⟩,
  ⟨0xFC0007FE#32, 0x7C00012E#32, fun w => .stwx (fld w 6 5) (fld w 11 5) (fld w 16 5)⟩,
  ⟨0xFC000000#32, 0x94000000#32, fun w => .stwu (fld w 6 5) (fld w 16 16) (fld w 11 5)⟩,
  ⟨0xFC0007FE#32, 0x7C00016E#32, fun w => .stwux (fld w 6 5) (fld w 11 5) (fld w 16 5)⟩,
  ⟨0xFC000003#32, 0xF8000000#32, fun w => .std (fld w 6 5) (fld w 16 14) (fld w 11 5)⟩,
  ⟨0xFC0007FE#32, 0x7C00012A#32, fun w => .stdx (fld w 6 5) (fld w 11 5) (fld w 16 5)⟩,
  ⟨0xFC000003#32, 0xF8000001#32, fun w => .stdu (fld w 6 5) (fld w 16 14) (fld w 11 5)⟩,
  ⟨0xFC0007FE#32, 0x7C00016A#32, fun w => .stdux (fld w 6 5) (fld w 11 5) (fld w 16 5)⟩]

/-- The rows of spec/42_fx_byte_reverse_multiple_string.md. -/
def rowsMultiple : List Row := [
  ⟨0xFC0007FE#32, 0x7C00062C#32, fun w => .lhbrx (fld w 6 5) (fld w 11 5) (fld w 16 5)⟩,
  ⟨0xFC0007FE#32, 0x7C00042C#32, fun w => .lwbrx (fld w 6 5) (fld w 11 5) (fld w 16 5)⟩,
  ⟨0xFC0007FE#32, 0x7C00072C#32, fun w => .sthbrx (fld w 6 5) (fld w 11 5) (fld w 16 5)⟩,
  ⟨0xFC0007FE#32, 0x7C00052C#32, fun w => .stwbrx (fld w 6 5) (fld w 11 5) (fld w 16 5)⟩,
  ⟨0xFC000000#32, 0xB8000000#32, fun w => .lmw (fld w 6 5) (fld w 16 16) (fld w 11 5)⟩,
  ⟨0xFC000000#32, 0xBC000000#32, fun w => .stmw (fld w 6 5) (fld w 16 16) (fld w 11 5)⟩,
  ⟨0xFC0007FE#32, 0x7C0004AA#32, fun w => .lswi (fld w 6 5) (fld w 11 5) (fld w 16 5)⟩,
  ⟨0xFC0007FE#32, 0x7C00042A#32, fun w => .lswx (fld w 6 5) (fld w 11 5) (fld w 16 5)⟩,
  ⟨0xFC0007FE#32, 0x7C0005AA#32, fun w => .stswi (fld w 6 5) (fld w 11 5) (fld w 16 5)⟩,
  ⟨0xFC0007FE#32, 0x7C00052A#32, fun w => .stswx (fld w 6 5) (fld w 11 5) (fld w 16 5)⟩]

/-- The rows of spec/43_fx_arithmetic.md. -/
def rowsArithmetic : List Row := [
  ⟨0xFC000000#32, 0x38000000#32, fun w => .addi (fld w 6 5) (fld w 11 5) (fld w 16 16)⟩,
  ⟨0xFC000000#32, 0x3C000000#32, fun w => .addis (fld w 6 5) (fld w 11 5) (fld w 16 16)⟩,
  ⟨0xFC0003FE#32, 0x7C000214#32, fun w => .add (fld w 6 5) (fld w 11 5) (fld w 16 5) (bitAt w 21) (bitAt w 31)⟩,
  ⟨0xFC0003FE#32, 0x7C000050#32, fun w => .subf (fld w 6 5) (fld w 11 5) (fld w 16 5) (bitAt w 21) (bitAt w 31)⟩,
  ⟨0xFC000000#32, 0x30000000#32, fun w => .addic (fld w 6 5) (fld w 11 5) (fld w 16 16)⟩,
  ⟨0xFC000000#32, 0x34000000#32, fun w => .addicRc (fld w 6 5) (fld w 11 5) (fld w 16 16)⟩,
  ⟨0xFC000000#32, 0x20000000#32, fun w => .subfic (fld w 6 5) (fld w 11 5) (fld w 16 16)⟩,
  ⟨0xFC0003FE#32, 0x7C000014#32, fun w => .addc (fld w 6 5) (fld w 11 5) (fld w 16 5) (bitAt w 21) (bitAt w 31)⟩,
  ⟨0xFC0003FE#32, 0x7C000010#32, fun w => .subfc (fld w 6 5) (fld w 11 5) (fld w 16 5) (bitAt w 21) (bitAt w 31)⟩,
  ⟨0xFC0003FE#32, 0x7C000114#32, fun w => .adde (fld w 6 5) (fld w 11 5) (fld w 16 5) (bitAt w 21) (bitAt w 31)⟩,
  ⟨0xFC0003FE#32, 0x7C000110#32, fun w => .subfe (fld w 6 5) (fld w 11 5) (fld w 16 5) (bitAt w 21) (bitAt w 31)⟩,
  ⟨0xFC0003FE#32, 0x7C0001D4#32, fun w => .addme (fld w 6 5) (fld w 11 5) (bitAt w 21) (bitAt w 31)⟩,
  ⟨0xFC0003FE#32, 0x7C0001D0#32, fun w => .subfme (fld w 6 5) (fld w 11 5) (bitAt w 21) (bitAt w 31)⟩,
  ⟨0xFC0003FE#32, 0x7C000194#32, fun w => .addze (fld w 6 5) (fld w 11 5) (bitAt w 21) (bitAt w 31)⟩,
  ⟨0xFC0003FE#32, 0x7C000190#32, fun w => .subfze (fld w 6 5) (fld w 11 5) (bitAt w 21) (bitAt w 31)⟩,
  ⟨0xFC0003FE#32, 0x7C0000D0#32, fun w => .neg (fld w 6 5) (fld w 11 5) (bitAt w 21) (bitAt w 31)⟩,
  ⟨0xFC000000#32, 0x1C000000#32, fun w => .mulli (fld w 6 5) (fld w 11 5) (fld w 16 16)⟩,
  ⟨0xFC0003FE#32, 0x7C0001D2#32, fun w => .mulld (fld w 6 5) (fld w 11 5) (fld w 16 5) (bitAt w 21) (bitAt w 31)⟩,
  ⟨0xFC0003FE#32, 0x7C0001D6#32, fun w => .mullw (fld w 6 5) (fld w 11 5) (fld w 16 5) (bitAt w 21) (bitAt w 31)⟩,
  ⟨0xFC0003FE#32, 0x7C000092#32, fun w => .mulhd (fld w 6 5) (fld w 11 5) (fld w 16 5) (bitAt w 31)⟩,
  ⟨0xFC0003FE#32, 0x7C000096#32, fun w => .mulhw (fld w 6 5) (fld w 11 5) (fld w 16 5) (bitAt w 31)⟩,
  ⟨0xFC0003FE#32, 0x7C000012#32, fun w => .mulhdu (fld w 6 5) (fld w 11 5) (fld w 16 5) (bitAt w 31)⟩,
  ⟨0xFC0003FE#32, 0x7C000016#32, fun w => .mulhwu (fld w 6 5) (fld w 11 5) (fld w 16 5) (bitAt w 31)⟩,
  ⟨0xFC0003FE#32, 0x7C0003D2#32, fun w => .divd (fld w 6 5) (fld w 11 5) (fld w 16 5) (bitAt w 21) (bitAt w 31)⟩,
  ⟨0xFC0003FE#32, 0x7C0003D6#32, fun w => .divw (fld w 6 5) (fld w 11 5) (fld w 16 5) (bitAt w 21) (bitAt w 31)⟩,
  ⟨0xFC0003FE#32, 0x7C000392#32, fun w => .divdu (fld w 6 5) (fld w 11 5) (fld w 16 5) (bitAt w 21) (bitAt w 31)⟩,
  ⟨0xFC0003FE#32, 0x7C000396#32, fun w => .divwu (fld w 6 5) (fld w 11 5) (fld w 16 5) (bitAt w 21) (bitAt w 31)⟩]

/-- The rows of spec/44_fx_compare_trap_logical.md. -/
def rowsLogical : List Row := [
  ⟨0xFC000000#32, 0x2C000000#32, fun w => .cmpi (fld w 6 3) (bitAt w 10) (fld w 11 5) (fld w 16 16)⟩,
  ⟨0xFC0007FE#32, 0x7C000000#32, fun w => .cmp (fld w 6 3) (bitAt w 10) (fld w 11 5) (fld w 16 5)⟩,
  ⟨0xFC000000#32, 0x28000000#32, fun w => .cmpli (fld w 6 3) (bitAt w 10) (fld w 11 5) (fld w 16 16)⟩,
  ⟨0xFC0007FE#32, 0x7C000040#32, fun w => .cmpl (fld w 6 3) (bitAt w 10) (fld w 11 5) (fld w 16 5)⟩,
  ⟨0xFC000000#32, 0x08000000#32, fun w => .tdi (fld w 6 5) (fld w 11 5) (fld w 16 16)⟩,
  ⟨0xFC000000#32, 0x0C000000#32, fun w => .twi (fld w 6 5) (fld w 11 5) (fld w 16 16)⟩,
  ⟨0xFC0007FE#32, 0x7C000088#32, fun w => .td (fld w 6 5) (fld w 11 5) (fld w 16 5)⟩,
  ⟨0xFC0007FE#32, 0x7C000008#32, fun w => .tw (fld w 6 5) (fld w 11 5) (fld w 16 5)⟩,
  ⟨0xFC000000#32, 0x70000000#32, fun w => .andiRc (fld w 11 5) (fld w 6 5) (fld w 16 16)⟩,
  ⟨0xFC000000#32, 0x74000000#32, fun w => .andisRc (fld w 11 5) (fld w 6 5) (fld w 16 16)⟩,
  ⟨0xFC000000#32, 0x60000000#32, fun w => .ori (fld w 11 5) (fld w 6 5) (fld w 16 16)⟩,
  ⟨0xFC000000#32, 0x64000000#32, fun w => .oris (fld w 11 5) (fld w 6 5) (fld w 16 16)⟩,
  ⟨0xFC000000#32, 0x68000000#32, fun w => .xori (fld w 11 5) (fld w 6 5) (fld w 16 16)⟩,
  ⟨0xFC000000#32, 0x6C000000#32, fun w => .xoris (fld w 11 5) (fld w 6 5) (fld w 16 16)⟩,
  ⟨0xFC0007FE#32, 0x7C000038#32, fun w => .and (fld w 11 5) (fld w 6 5) (fld w 16 5) (bitAt w 31)⟩,
  ⟨0xFC0007FE#32, 0x7C000378#32, fun w => .or (fld w 11 5) (fld w 6 5) (fld w 16 5) (bitAt w 31)⟩,
  ⟨0xFC0007FE#32, 0x7C000278#32, fun w => .xor (fld w 11 5) (fld w 6 5) (fld w 16 5) (bitAt w 31)⟩,
  ⟨0xFC0007FE#32, 0x7C0003B8#32, fun w => .nand (fld w 11 5) (fld w 6 5) (fld w 16 5) (bitAt w 31)⟩,
  ⟨0xFC0007FE#32, 0x7C0000F8#32, fun w => .nor (fld w 11 5) (fld w 6 5) (fld w 16 5) (bitAt w 31)⟩,
  ⟨0xFC0007FE#32, 0x7C000238#32, fun w => .eqv (fld w 11 5) (fld w 6 5) (fld w 16 5) (bitAt w 31)⟩,
  ⟨0xFC0007FE#32, 0x7C000078#32, fun w => .andc (fld w 11 5) (fld w 6 5) (fld w 16 5) (bitAt w 31)⟩,
  ⟨0xFC0007FE#32, 0x7C000338#32, fun w => .orc (fld w 11 5) (fld w 6 5) (fld w 16 5) (bitAt w 31)⟩,
  ⟨0xFC0007FE#32, 0x7C000774#32, fun w => .extsb (fld w 11 5) (fld w 6 5) (bitAt w 31)⟩,
  ⟨0xFC0007FE#32, 0x7C000734#32, fun w => .extsh (fld w 11 5) (fld w 6 5) (bitAt w 31)⟩,
  ⟨0xFC0007FE#32, 0x7C0007B4#32, fun w => .extsw (fld w 11 5) (fld w 6 5) (bitAt w 31)⟩,
  ⟨0xFC0007FE#32, 0x7C000074#32, fun w => .cntlzd (fld w 11 5) (fld w 6 5) (bitAt w 31)⟩,
  ⟨0xFC0007FE#32, 0x7C000034#32, fun w => .cntlzw (fld w 11 5) (fld w 6 5) (bitAt w 31)⟩]

/-- The rows of spec/45_fx_rotate_shift_move.md. -/
def rowsRotateMove : List Row := [
  ⟨0xFC00001C#32, 0x78000000#32, fun w => .rldicl (fld w 11 5) (fld w 6 5) (fld w 30 1 ++ fld w 16 5) (fld w 26 1 ++ fld w 21 5) (bitAt w 31)⟩,
  ⟨0xFC00001C#32, 0x78000004#32, fun w => .rldicr (fld w 11 5) (fld w 6 5) (fld w 30 1 ++ fld w 16 5) (fld w 26 1 ++ fld w 21 5) (bitAt w 31)⟩,
  ⟨0xFC00001C#32, 0x78000008#32, fun w => .rldic (fld w 11 5) (fld w 6 5) (fld w 30 1 ++ fld w 16 5) (fld w 26 1 ++ fld w 21 5) (bitAt w 31)⟩,
  ⟨0xFC000000#32, 0x54000000#32, fun w => .rlwinm (fld w 11 5) (fld w 6 5) (fld w 16 5) (fld w 21 5) (fld w 26 5) (bitAt w 31)⟩,
  ⟨0xFC00001E#32, 0x78000010#32, fun w => .rldcl (fld w 11 5) (fld w 6 5) (fld w 16 5) (fld w 26 1 ++ fld w 21 5) (bitAt w 31)⟩,
  ⟨0xFC00001E#32, 0x78000012#32, fun w => .rldcr (fld w 11 5) (fld w 6 5) (fld w 16 5) (fld w 26 1 ++ fld w 21 5) (bitAt w 31)⟩,
  ⟨0xFC000000#32, 0x5C000000#32, fun w => .rlwnm (fld w 11 5) (fld w 6 5) (fld w 16 5) (fld w 21 5) (fld w 26 5) (bitAt w 31)⟩,
  ⟨0xFC00001C#32, 0x7800000C#32, fun w => .rldimi (fld w 11 5) (fld w 6 5) (fld w 30 1 ++ fld w 16 5) (fld w 26 1 ++ fld w 21 5) (bitAt w 31)⟩,
  ⟨0xFC000000#32, 0x50000000#32, fun w => .rlwimi (fld w 11 5) (fld w 6 5) (fld w 16 5) (fld w 21 5) (fld w 26 5) (bitAt w 31)⟩,
  ⟨0xFC0007FE#32, 0x7C000036#32, fun w => .sld (fld w 11 5) (fld w 6 5) (fld w 16 5) (bitAt w 31)⟩,
  ⟨0xFC0007FE#32, 0x7C000030#32, fun w => .slw (fld w 11 5) (fld w 6 5) (fld w 16 5) (bitAt w 31)⟩,
  ⟨0xFC0007FE#32, 0x7C000436#32, fun w => .srd (fld w 11 5) (fld w 6 5) (fld w 16 5) (bitAt w 31)⟩,
  ⟨0xFC0007FE#32, 0x7C000430#32, fun w => .srw (fld w 11 5) (fld w 6 5) (fld w 16 5) (bitAt w 31)⟩,
  ⟨0xFC0007FC#32, 0x7C000674#32, fun w => .sradi (fld w 11 5) (fld w 6 5) (fld w 30 1 ++ fld w 16 5) (bitAt w 31)⟩,
  ⟨0xFC0007FE#32, 0x7C000670#32, fun w => .srawi (fld w 11 5) (fld w 6 5) (fld w 16 5) (bitAt w 31)⟩,
  ⟨0xFC0007FE#32, 0x7C000634#32, fun w => .srad (fld w 11 5) (fld w 6 5) (fld w 16 5) (bitAt w 31)⟩,
  ⟨0xFC0007FE#32, 0x7C000630#32, fun w => .sraw (fld w 11 5) (fld w 6 5) (fld w 16 5) (bitAt w 31)⟩,
  ⟨0xFC0007FE#32, 0x7C0003A6#32, fun w => .mtspr (fld w 16 5 ++ fld w 11 5) (fld w 6 5)⟩,
  ⟨0xFC0007FE#32, 0x7C0002A6#32, fun w => .mfspr (fld w 6 5) (fld w 16 5 ++ fld w 11 5)⟩,
  ⟨0xFC1007FE#32, 0x7C000120#32, fun w => .mtcrf (fld w 12 8) (fld w 6 5)⟩,
  ⟨0xFC1007FE#32, 0x7C000026#32, fun w => .mfcr (fld w 6 5)⟩,
  ⟨0xFC1007FE#32, 0x7C100120#32, fun w => .mtocrf (fld w 12 8) (fld w 6 5)⟩,
  ⟨0xFC1007FE#32, 0x7C100026#32, fun w => .mfocrf (fld w 6 5) (fld w 12 8)⟩,
  ⟨0xFC0007FE#32, 0x7C000400#32, fun w => .mcrxr (fld w 6 3)⟩]

/-- The rows of spec/46_fp_load_store_move.md. -/
def rowsFpStorageMove : List Row := [
  ⟨0xFC000000#32, 0xC0000000#32, fun w => .lfs (fld w 6 5) (fld w 16 16) (fld w 11 5)⟩,
  ⟨0xFC0007FE#32, 0x7C00042E#32, fun w => .lfsx (fld w 6 5) (fld w 11 5) (fld w 16 5)⟩,
  ⟨0xFC000000#32, 0xC4000000#32, fun w => .lfsu (fld w 6 5) (fld w 16 16) (fld w 11 5)⟩,
  ⟨0xFC0007FE#32, 0x7C00046E#32, fun w => .lfsux (fld w 6 5) (fld w 11 5) (fld w 16 5)⟩,
  ⟨0xFC000000#32, 0xC8000000#32, fun w => .lfd (fld w 6 5) (fld w 16 16) (fld w 11 5)⟩,
  ⟨0xFC0007FE#32, 0x7C0004AE#32, fun w => .lfdx (fld w 6 5) (fld w 11 5) (fld w 16 5)⟩,
  ⟨0xFC000000#32, 0xCC000000#32, fun w => .lfdu (fld w 6 5) (fld w 16 16) (fld w 11 5)⟩,
  ⟨0xFC0007FE#32, 0x7C0004EE#32, fun w => .lfdux (fld w 6 5) (fld w 11 5) (fld w 16 5)⟩,
  ⟨0xFC000000#32, 0xD0000000#32, fun w => .stfs (fld w 6 5) (fld w 16 16) (fld w 11 5)⟩,
  ⟨0xFC0007FE#32, 0x7C00052E#32, fun w => .stfsx (fld w 6 5) (fld w 11 5) (fld w 16 5)⟩,
  ⟨0xFC000000#32, 0xD4000000#32, fun w => .stfsu (fld w 6 5) (fld w 16 16) (fld w 11 5)⟩,
  ⟨0xFC0007FE#32, 0x7C00056E#32, fun w => .stfsux (fld w 6 5) (fld w 11 5) (fld w 16 5)⟩,
  ⟨0xFC000000#32, 0xD8000000#32, fun w => .stfd (fld w 6 5) (fld w 16 16) (fld w 11 5)⟩,
  ⟨0xFC0007FE#32, 0x7C0005AE#32, fun w => .stfdx (fld w 6 5) (fld w 11 5) (fld w 16 5)⟩,
  ⟨0xFC000000#32, 0xDC000000#32, fun w => .stfdu (fld w 6 5) (fld w 16 16) (fld w 11 5)⟩,
  ⟨0xFC0007FE#32, 0x7C0005EE#32, fun w => .stfdux (fld w 6 5) (fld w 11 5) (fld w 16 5)⟩,
  ⟨0xFC0007FE#32, 0x7C0007AE#32, fun w => .stfiwx (fld w 6 5) (fld w 11 5) (fld w 16 5)⟩,
  ⟨0xFC0007FE#32, 0xFC000090#32, fun w => .fmr (fld w 6 5) (fld w 16 5) (bitAt w 31)⟩,
  ⟨0xFC0007FE#32, 0xFC000050#32, fun w => .fneg (fld w 6 5) (fld w 16 5) (bitAt w 31)⟩,
  ⟨0xFC0007FE#32, 0xFC000210#32, fun w => .fabs (fld w 6 5) (fld w 16 5) (bitAt w 31)⟩,
  ⟨0xFC0007FE#32, 0xFC000110#32, fun w => .fnabs (fld w 6 5) (fld w 16 5) (bitAt w 31)⟩]

/-- The rows of spec/47_fp_arithmetic.md. -/
def rowsFpArithmetic : List Row := [
  ⟨0xFC00003E#32, 0xFC00002A#32, fun w => .fadd (fld w 6 5) (fld w 11 5) (fld w 16 5) (bitAt w 31)⟩,
  ⟨0xFC00003E#32, 0xEC00002A#32, fun w => .fadds (fld w 6 5) (fld w 11 5) (fld w 16 5) (bitAt w 31)⟩,
  ⟨0xFC00003E#32, 0xFC000028#32, fun w => .fsub (fld w 6 5) (fld w 11 5) (fld w 16 5) (bitAt w 31)⟩,
  ⟨0xFC00003E#32, 0xEC000028#32, fun w => .fsubs (fld w 6 5) (fld w 11 5) (fld w 16 5) (bitAt w 31)⟩,
  ⟨0xFC00003E#32, 0xFC000032#32, fun w => .fmul (fld w 6 5) (fld w 11 5) (fld w 21 5) (bitAt w 31)⟩,
  ⟨0xFC00003E#32, 0xEC000032#32, fun w => .fmuls (fld w 6 5) (fld w 11 5) (fld w 21 5) (bitAt w 31)⟩,
  ⟨0xFC00003E#32, 0xFC000024#32, fun w => .fdiv (fld w 6 5) (fld w 11 5) (fld w 16 5) (bitAt w 31)⟩,
  ⟨0xFC00003E#32, 0xEC000024#32, fun w => .fdivs (fld w 6 5) (fld w 11 5) (fld w 16 5) (bitAt w 31)⟩,
  ⟨0xFC00003E#32, 0xFC00003A#32, fun w => .fmadd (fld w 6 5) (fld w 11 5) (fld w 21 5) (fld w 16 5) (bitAt w 31)⟩,
  ⟨0xFC00003E#32, 0xEC00003A#32, fun w => .fmadds (fld w 6 5) (fld w 11 5) (fld w 21 5) (fld w 16 5) (bitAt w 31)⟩,
  ⟨0xFC00003E#32, 0xFC000038#32, fun w => .fmsub (fld w 6 5) (fld w 11 5) (fld w 21 5) (fld w 16 5) (bitAt w 31)⟩,
  ⟨0xFC00003E#32, 0xEC000038#32, fun w => .fmsubs (fld w 6 5) (fld w 11 5) (fld w 21 5) (fld w 16 5) (bitAt w 31)⟩,
  ⟨0xFC00003E#32, 0xFC00003E#32, fun w => .fnmadd (fld w 6 5) (fld w 11 5) (fld w 21 5) (fld w 16 5) (bitAt w 31)⟩,
  ⟨0xFC00003E#32, 0xEC00003E#32, fun w => .fnmadds (fld w 6 5) (fld w 11 5) (fld w 21 5) (fld w 16 5) (bitAt w 31)⟩,
  ⟨0xFC00003E#32, 0xFC00003C#32, fun w => .fnmsub (fld w 6 5) (fld w 11 5) (fld w 21 5) (fld w 16 5) (bitAt w 31)⟩,
  ⟨0xFC00003E#32, 0xEC00003C#32, fun w => .fnmsubs (fld w 6 5) (fld w 11 5) (fld w 21 5) (fld w 16 5) (bitAt w 31)⟩]

/-- The rows of spec/48_fp_convert_compare.md. -/
def rowsFpConvert : List Row := [
  ⟨0xFC0007FE#32, 0xFC000018#32, fun w => .frsp (fld w 6 5) (fld w 16 5) (bitAt w 31)⟩,
  ⟨0xFC0007FE#32, 0xFC00065C#32, fun w => .fctid (fld w 6 5) (fld w 16 5) (bitAt w 31)⟩,
  ⟨0xFC0007FE#32, 0xFC00065E#32, fun w => .fctidz (fld w 6 5) (fld w 16 5) (bitAt w 31)⟩,
  ⟨0xFC0007FE#32, 0xFC00001C#32, fun w => .fctiw (fld w 6 5) (fld w 16 5) (bitAt w 31)⟩,
  ⟨0xFC0007FE#32, 0xFC00001E#32, fun w => .fctiwz (fld w 6 5) (fld w 16 5) (bitAt w 31)⟩,
  ⟨0xFC0007FE#32, 0xFC00069C#32, fun w => .fcfid (fld w 6 5) (fld w 16 5) (bitAt w 31)⟩,
  ⟨0xFC0007FE#32, 0xFC000000#32, fun w => .fcmpu (fld w 6 3) (fld w 11 5) (fld w 16 5)⟩,
  ⟨0xFC0007FE#32, 0xFC000040#32, fun w => .fcmpo (fld w 6 3) (fld w 11 5) (fld w 16 5)⟩]

/-- The rows of spec/49_fp_status_optional.md. -/
def rowsFpStatus : List Row := [
  ⟨0xFC0007FE#32, 0xFC00048E#32, fun w => .mffs (fld w 6 5) (bitAt w 31)⟩,
  ⟨0xFC0007FE#32, 0xFC000080#32, fun w => .mcrfs (fld w 6 3) (fld w 11 3)⟩,
  ⟨0xFC0007FE#32, 0xFC00010C#32, fun w => .mtfsfi (fld w 6 3) (fld w 16 4) (bitAt w 31)⟩,
  ⟨0xFC0007FE#32, 0xFC00058E#32, fun w => .mtfsf (fld w 7 8) (fld w 16 5) (bitAt w 31)⟩,
  ⟨0xFC0007FE#32, 0xFC00008C#32, fun w => .mtfsb0 (fld w 6 5) (bitAt w 31)⟩,
  ⟨0xFC0007FE#32, 0xFC00004C#32, fun w => .mtfsb1 (fld w 6 5) (bitAt w 31)⟩,
  ⟨0xFC00003E#32, 0xFC00002C#32, fun w => .fsqrt (fld w 6 5) (fld w 16 5) (bitAt w 31)⟩,
  ⟨0xFC00003E#32, 0xEC00002C#32, fun w => .fsqrts (fld w 6 5) (fld w 16 5) (bitAt w 31)⟩,
  ⟨0xFC00003E#32, 0xEC000030#32, fun w => .fres (fld w 6 5) (fld w 16 5) (bitAt w 31)⟩,
  ⟨0xFC00003E#32, 0xFC000034#32, fun w => .frsqrte (fld w 6 5) (fld w 16 5) (bitAt w 31)⟩,
  ⟨0xFC00003E#32, 0xFC00002E#32, fun w => .fsel (fld w 6 5) (fld w 11 5) (fld w 21 5) (fld w 16 5) (bitAt w 31)⟩]

/-- The rows of spec/30_encoding.md. `stwcx.` and `stdcx.` have bit 31 = 1 in their masks, as the opcode table has it: the same word
with bit 31 = 0, which no row covers, is an invalid form (R208, R131; log 33). -/
def rowsOtherBooks : List Row := [
  ⟨0xFC0007FE#32, 0x4C000024#32, fun _ => .rfid⟩,
  ⟨0xFC0007FE#32, 0x4C00012C#32, fun _ => .isync⟩,
  ⟨0xFC0007FE#32, 0x7C000028#32, fun _ => .lwarx⟩,
  ⟨0xFC0007FE#32, 0x7C00006C#32, fun _ => .dcbst⟩,
  ⟨0xFC0007FE#32, 0x7C0000A6#32, fun _ => .mfmsr⟩,
  ⟨0xFC0007FE#32, 0x7C0000A8#32, fun _ => .ldarx⟩,
  ⟨0xFC0007FE#32, 0x7C0000AC#32, fun _ => .dcbf⟩,
  ⟨0xFC0007FE#32, 0x7C000124#32, fun _ => .mtmsr⟩,
  ⟨0xFC0007FF#32, 0x7C00012D#32, fun _ => .stwcxRc⟩,
  ⟨0xFC0007FE#32, 0x7C000164#32, fun _ => .mtmsrd⟩,
  ⟨0xFC0007FE#32, 0x7C0001A4#32, fun _ => .mtsr⟩,
  ⟨0xFC0007FF#32, 0x7C0001AD#32, fun _ => .stdcxRc⟩,
  ⟨0xFC0007FE#32, 0x7C0001E4#32, fun _ => .mtsrin⟩,
  ⟨0xFC0007FE#32, 0x7C0001EC#32, fun _ => .dcbtst⟩,
  ⟨0xFC0007FE#32, 0x7C00022C#32, fun _ => .dcbt⟩,
  ⟨0xFC0007FE#32, 0x7C000264#32, fun _ => .tlbie⟩,
  ⟨0xFC0007FE#32, 0x7C00026C#32, fun _ => .eciwx⟩,
  ⟨0xFC0007FE#32, 0x7C0002E4#32, fun _ => .tlbia⟩,
  ⟨0xFC0007FE#32, 0x7C0002E6#32, fun _ => .mftb⟩,
  ⟨0xFC0007FE#32, 0x7C000324#32, fun _ => .slbmte⟩,
  ⟨0xFC0007FE#32, 0x7C000364#32, fun _ => .slbie⟩,
  ⟨0xFC0007FE#32, 0x7C00036C#32, fun _ => .ecowx⟩,
  ⟨0xFC0007FE#32, 0x7C0003E4#32, fun _ => .slbia⟩,
  ⟨0xFC0007FE#32, 0x7C00046C#32, fun _ => .tlbsync⟩,
  ⟨0xFC0007FE#32, 0x7C0004A6#32, fun _ => .mfsr⟩,
  ⟨0xFC0007FE#32, 0x7C0004AC#32, fun _ => .sync⟩,
  ⟨0xFC0007FE#32, 0x7C000526#32, fun _ => .mfsrin⟩,
  ⟨0xFC0007FE#32, 0x7C0006A6#32, fun _ => .slbmfev⟩,
  ⟨0xFC0007FE#32, 0x7C0006AC#32, fun _ => .eieio⟩,
  ⟨0xFC0007FE#32, 0x7C000726#32, fun _ => .slbmfee⟩,
  ⟨0xFC0007FE#32, 0x7C0007AC#32, fun _ => .icbi⟩,
  ⟨0xFC0007FE#32, 0x7C0007EC#32, fun _ => .dcbz⟩]

/-- The opcode table, in the order of spec/opcode_table.json. -/
def rows : List Row :=
  rowsBranch ++ rowsStorage ++ rowsMultiple ++ rowsArithmetic ++ rowsLogical ++
  rowsRotateMove ++ rowsFpStorageMove ++ rowsFpArithmetic ++ rowsFpConvert ++ rowsFpStatus ++ rowsOtherBooks

/-- The 10-bit extended opcodes of primary 31 that POWER used and PowerPC reserves (R206); the XO-form ones stand twice,
with bit 21 clear and set. -/
def reserved31 : List Nat :=
  [360, 872, 531, 118, 502, 630, 331, 843, 363, 875, 264, 776, 277, 29, 541, 627, 107, 619, 488, 1000, 818, 537, 153, 217,
   184, 248, 216, 152, 952, 920, 665, 921, 729, 696, 760, 728, 664, 823, 791, 951, 919]

/-- The Reserved class: primary 0 but for the all-zero word (R203), and the dropped POWER and POWER2 instructions (R206). -/
def reservedWord (w : Word) : Bool :=
  let op := (fld w 0 6).toNat
  let xo := (fld w 21 10).toNat
  (op == 0 && w != 0#32) || op == 9 || op == 22 || (op == 19 && (xo == 50 || xo == 82)) ||
    (op == 31 && reserved31.contains xo) || ([56, 57, 60, 61].contains op && fld w 30 2 == 0#2)

/-- The opcodes 31/150 and 31/214 of `stwcx.` and `stdcx.`: with bit 31 = 0, "a value other than that specified in the layout
diagram", an invalid form of an instruction of the Defined class (R200, R204, R208). -/
def storeConditionalWord (w : Word) : Bool := [0x7C00012C#32, 0x7C0001AC#32].contains (w &&& 0xFC0007FE#32)

/-- Why a word that no row covers is no instruction: its class, by its opcodes (R200), or its form (R208). -/
def rejected (w : Word) : DecodeError :=
  if reservedWord w then .reservedClass else if storeConditionalWord w then .invalidForm else .illegalClass

/-- The instruction a word holds (R180). -/
def decodeWord (w : Word) : Except DecodeError Instr :=
  match rows.find? (·.covers w) with
  | some r => .ok (r.build w)
  | none => .error (rejected w)

/-- The word four bytes hold, the byte at the lowest address the most significant (R108, R150). -/
def wordOfBytes (b0 b1 b2 b3 : Byte) : Word := b0 ++ b1 ++ b2 ++ b3

/-- The four bytes of a word, in storage order (R108, R150). -/
def bytesOfWord (w : Word) : List Byte := [fld w 0 8, fld w 8 8, fld w 16 8, fld w 24 8]

/-- The instruction at the head of a list of bytes, and the bytes after it (R150). -/
def decode : List Byte → Except DecodeError (Instr × List Byte)
  | b0 :: b1 :: b2 :: b3 :: rest =>
    match decodeWord (wordOfBytes b0 b1 b2 b3) with
    | .ok i => .ok (i, rest)
    | .error e => .error e
  | _ => .error .truncated

/-- The decoder on an instruction given as the number of its opcode-table bits; bits above `nbits` are 0. -/
def decodeTableWord (nbits w : Nat) : Option Instr :=
  match decode (bytesOfWord (BitVec.ofNat 32 (w % 2 ^ nbits))) with
  | .ok (i, _) => some i
  | .error _ => none

/-! The formats of R155 to R169, each as the concatenation of its fields from bit 0; a reserved field is written as zeros
(R26). -/

/-- I-form (R155). -/
def encI (op : BitVec 6) (li : BitVec 24) (aa lk : Bool) : Word := op ++ li ++ bit aa ++ bit lk

/-- B-form (R156). -/
def encB (op : BitVec 6) (bo bi : BitVec 5) (bd : BitVec 14) (aa lk : Bool) : Word := op ++ bo ++ bi ++ bd ++ bit aa ++ bit lk

/-- SC-form (R157). -/
def encSC (op : BitVec 6) (lev : BitVec 7) (one : Bool) : Word := op ++ 0#14 ++ lev ++ 0#3 ++ bit one ++ 0#1

/-- D-form (R158). -/
def encD (op : BitVec 6) (a b : BitVec 5) (d : BitVec 16) : Word := op ++ a ++ b ++ d

/-- DS-form (R159). -/
def encDS (op : BitVec 6) (a b : BitVec 5) (ds : BitVec 14) (xo : BitVec 2) : Word := op ++ a ++ b ++ ds ++ xo

/-- X-form and XL-form (R160, R161). -/
def encX (op : BitVec 6) (a b c : BitVec 5) (xo : BitVec 10) (rc : Bool) : Word := op ++ a ++ b ++ c ++ xo ++ bit rc

/-- XFX-form with a field mask (R162). -/
def encXFX (op : BitVec 6) (a : BitVec 5) (one : Bool) (fxm : BitVec 8) (xo : BitVec 10) : Word :=
  op ++ a ++ bit one ++ fxm ++ 0#1 ++ xo ++ 0#1

/-- XFL-form (R163). -/
def encXFL (op : BitVec 6) (flm : BitVec 8) (b : BitVec 5) (xo : BitVec 10) (rc : Bool) : Word :=
  op ++ 0#1 ++ flm ++ 0#1 ++ b ++ xo ++ bit rc

/-- XS-form (R164): the sixth shift bit is bit 30 (R173). -/
def encXS (op : BitVec 6) (a b : BitVec 5) (sh : BitVec 6) (xo : BitVec 9) (rc : Bool) : Word :=
  op ++ a ++ b ++ fld sh 1 5 ++ xo ++ fld sh 0 1 ++ bit rc

/-- XO-form (R165). -/
def encXO (op : BitVec 6) (a b c : BitVec 5) (oe : Bool) (xo : BitVec 9) (rc : Bool) : Word :=
  op ++ a ++ b ++ c ++ bit oe ++ xo ++ bit rc

/-- A-form (R166). -/
def encA (op : BitVec 6) (a b c d xo : BitVec 5) (rc : Bool) : Word := op ++ a ++ b ++ c ++ d ++ xo ++ bit rc

/-- M-form (R167). -/
def encM (op : BitVec 6) (a b c mb me : BitVec 5) (rc : Bool) : Word := op ++ a ++ b ++ c ++ mb ++ me ++ bit rc

/-- MD-form (R168): the sixth bits of the shift and of the mask bound are bits 30 and 26 (R173). -/
def encMD (op : BitVec 6) (a b : BitVec 5) (sh m : BitVec 6) (xo : BitVec 3) (rc : Bool) : Word :=
  op ++ a ++ b ++ fld sh 1 5 ++ fld m 1 5 ++ fld m 0 1 ++ xo ++ fld sh 0 1 ++ bit rc

/-- MDS-form (R169). -/
def encMDS (op : BitVec 6) (a b c : BitVec 5) (m : BitVec 6) (xo : BitVec 4) (rc : Bool) : Word :=
  op ++ a ++ b ++ c ++ fld m 1 5 ++ fld m 0 1 ++ xo ++ bit rc

/-- The low-order half of an SPR number, instruction bits 11:15 (R172). -/
def lo5 (n : BitVec 10) : BitVec 5 := fld n 5 5

/-- The high-order half of an SPR number, instruction bits 16:20 (R172). -/
def hi5 (n : BitVec 10) : BitVec 5 := fld n 0 5

/-- The word of an instruction, its reserved fields zero. -/
def encode : Instr → Word
  | .b li aa lk => encI 18#6 li aa lk
  | .bc bo bi bd aa lk => encB 16#6 bo bi bd aa lk
  | .bclr bo bi bh lk => encX 19#6 bo bi (0#3 ++ bh) 16#10 lk
  | .bcctr bo bi bh lk => encX 19#6 bo bi (0#3 ++ bh) 528#10 lk
  | .sc lev one => encSC 17#6 lev one
  | .crand bt ba bb => encX 19#6 bt ba bb 257#10 false
  | .cror bt ba bb => encX 19#6 bt ba bb 449#10 false
  | .crxor bt ba bb => encX 19#6 bt ba bb 193#10 false
  | .crnand bt ba bb => encX 19#6 bt ba bb 225#10 false
  | .crnor bt ba bb => encX 19#6 bt ba bb 33#10 false
  | .creqv bt ba bb => encX 19#6 bt ba bb 289#10 false
  | .crandc bt ba bb => encX 19#6 bt ba bb 129#10 false
  | .crorc bt ba bb => encX 19#6 bt ba bb 417#10 false
  | .mcrf bf bfa => encX 19#6 (bf ++ 0#2) (bfa ++ 0#2) 0#5 0#10 false
  | .lbz rt d ra => encD 34#6 rt ra d
  | .lbzx rt ra rb => encX 31#6 rt ra rb 87#10 false
  | .lbzu rt d ra => encD 35#6 rt ra d
  | .lbzux rt ra rb => encX 31#6 rt ra rb 119#10 false
  | .lhz rt d ra => encD 40#6 rt ra d
  | .lhzx rt ra rb => encX 31#6 rt ra rb 279#10 false
  | .lhzu rt d ra => encD 41#6 rt ra d
  | .lhzux rt ra rb => encX 31#6 rt ra rb 311#10 false
  | .lha rt d ra => encD 42#6 rt ra d
  | .lhax rt ra rb => encX 31#6 rt ra rb 343#10 false
  | .lhau rt d ra => encD 43#6 rt ra d
  | .lhaux rt ra rb => encX 31#6 rt ra rb 375#10 false
  | .lwz rt d ra => encD 32#6 rt ra d
  | .lwzx rt ra rb => encX 31#6 rt ra rb 23#10 false
  | .lwzu rt d ra => encD 33#6 rt ra d
  | .lwzux rt ra rb => encX 31#6 rt ra rb 55#10 false
  | .lwa rt ds ra => encDS 58#6 rt ra ds 2#2
  | .lwax rt ra rb => encX 31#6 rt ra rb 341#10 false
  | .lwaux rt ra rb => encX 31#6 rt ra rb 373#10 false
  | .ld rt ds ra => encDS 58#6 rt ra ds 0#2
  | .ldx rt ra rb => encX 31#6 rt ra rb 21#10 false
  | .ldu rt ds ra => encDS 58#6 rt ra ds 1#2
  | .ldux rt ra rb => encX 31#6 rt ra rb 53#10 false
  | .stb rs d ra => encD 38#6 rs ra d
  | .stbx rs ra rb => encX 31#6 rs ra rb 215#10 false
  | .stbu rs d ra => encD 39#6 rs ra d
  | .stbux rs ra rb => encX 31#6 rs ra rb 247#10 false
  | .sth rs d ra => encD 44#6 rs ra d
  | .sthx rs ra rb => encX 31#6 rs ra rb 407#10 false
  | .sthu rs d ra => encD 45#6 rs ra d
  | .sthux rs ra rb => encX 31#6 rs ra rb 439#10 false
  | .stw rs d ra => encD 36#6 rs ra d
  | .stwx rs ra rb => encX 31#6 rs ra rb 151#10 false
  | .stwu rs d ra => encD 37#6 rs ra d
  | .stwux rs ra rb => encX 31#6 rs ra rb 183#10 false
  | .std rs ds ra => encDS 62#6 rs ra ds 0#2
  | .stdx rs ra rb => encX 31#6 rs ra rb 149#10 false
  | .stdu rs ds ra => encDS 62#6 rs ra ds 1#2
  | .stdux rs ra rb => encX 31#6 rs ra rb 181#10 false
  | .lhbrx rt ra rb => encX 31#6 rt ra rb 790#10 false
  | .lwbrx rt ra rb => encX 31#6 rt ra rb 534#10 false
  | .sthbrx rs ra rb => encX 31#6 rs ra rb 918#10 false
  | .stwbrx rs ra rb => encX 31#6 rs ra rb 662#10 false
  | .lmw rt d ra => encD 46#6 rt ra d
  | .stmw rs d ra => encD 47#6 rs ra d
  | .lswi rt ra nb => encX 31#6 rt ra nb 597#10 false
  | .lswx rt ra rb => encX 31#6 rt ra rb 533#10 false
  | .stswi rs ra nb => encX 31#6 rs ra nb 725#10 false
  | .stswx rs ra rb => encX 31#6 rs ra rb 661#10 false
  | .addi rt ra si => encD 14#6 rt ra si
  | .addis rt ra si => encD 15#6 rt ra si
  | .add rt ra rb oe rc => encXO 31#6 rt ra rb oe 266#9 rc
  | .subf rt ra rb oe rc => encXO 31#6 rt ra rb oe 40#9 rc
  | .addic rt ra si => encD 12#6 rt ra si
  | .addicRc rt ra si => encD 13#6 rt ra si
  | .subfic rt ra si => encD 8#6 rt ra si
  | .addc rt ra rb oe rc => encXO 31#6 rt ra rb oe 10#9 rc
  | .subfc rt ra rb oe rc => encXO 31#6 rt ra rb oe 8#9 rc
  | .adde rt ra rb oe rc => encXO 31#6 rt ra rb oe 138#9 rc
  | .subfe rt ra rb oe rc => encXO 31#6 rt ra rb oe 136#9 rc
  | .addme rt ra oe rc => encXO 31#6 rt ra 0#5 oe 234#9 rc
  | .subfme rt ra oe rc => encXO 31#6 rt ra 0#5 oe 232#9 rc
  | .addze rt ra oe rc => encXO 31#6 rt ra 0#5 oe 202#9 rc
  | .subfze rt ra oe rc => encXO 31#6 rt ra 0#5 oe 200#9 rc
  | .neg rt ra oe rc => encXO 31#6 rt ra 0#5 oe 104#9 rc
  | .mulli rt ra si => encD 7#6 rt ra si
  | .mulld rt ra rb oe rc => encXO 31#6 rt ra rb oe 233#9 rc
  | .mullw rt ra rb oe rc => encXO 31#6 rt ra rb oe 235#9 rc
  | .mulhd rt ra rb rc => encXO 31#6 rt ra rb false 73#9 rc
  | .mulhw rt ra rb rc => encXO 31#6 rt ra rb false 75#9 rc
  | .mulhdu rt ra rb rc => encXO 31#6 rt ra rb false 9#9 rc
  | .mulhwu rt ra rb rc => encXO 31#6 rt ra rb false 11#9 rc
  | .divd rt ra rb oe rc => encXO 31#6 rt ra rb oe 489#9 rc
  | .divw rt ra rb oe rc => encXO 31#6 rt ra rb oe 491#9 rc
  | .divdu rt ra rb oe rc => encXO 31#6 rt ra rb oe 457#9 rc
  | .divwu rt ra rb oe rc => encXO 31#6 rt ra rb oe 459#9 rc
  | .cmpi bf l ra si => encD 11#6 (bf ++ 0#1 ++ bit l) ra si
  | .cmp bf l ra rb => encX 31#6 (bf ++ 0#1 ++ bit l) ra rb 0#10 false
  | .cmpli bf l ra ui => encD 10#6 (bf ++ 0#1 ++ bit l) ra ui
  | .cmpl bf l ra rb => encX 31#6 (bf ++ 0#1 ++ bit l) ra rb 32#10 false
  | .tdi sel ra si => encD 2#6 sel ra si
  | .twi sel ra si => encD 3#6 sel ra si
  | .td sel ra rb => encX 31#6 sel ra rb 68#10 false
  | .tw sel ra rb => encX 31#6 sel ra rb 4#10 false
  | .andiRc ra rs ui => encD 28#6 rs ra ui
  | .andisRc ra rs ui => encD 29#6 rs ra ui
  | .ori ra rs ui => encD 24#6 rs ra ui
  | .oris ra rs ui => encD 25#6 rs ra ui
  | .xori ra rs ui => encD 26#6 rs ra ui
  | .xoris ra rs ui => encD 27#6 rs ra ui
  | .and ra rs rb rc => encX 31#6 rs ra rb 28#10 rc
  | .or ra rs rb rc => encX 31#6 rs ra rb 444#10 rc
  | .xor ra rs rb rc => encX 31#6 rs ra rb 316#10 rc
  | .nand ra rs rb rc => encX 31#6 rs ra rb 476#10 rc
  | .nor ra rs rb rc => encX 31#6 rs ra rb 124#10 rc
  | .eqv ra rs rb rc => encX 31#6 rs ra rb 284#10 rc
  | .andc ra rs rb rc => encX 31#6 rs ra rb 60#10 rc
  | .orc ra rs rb rc => encX 31#6 rs ra rb 412#10 rc
  | .extsb ra rs rc => encX 31#6 rs ra 0#5 954#10 rc
  | .extsh ra rs rc => encX 31#6 rs ra 0#5 922#10 rc
  | .extsw ra rs rc => encX 31#6 rs ra 0#5 986#10 rc
  | .cntlzd ra rs rc => encX 31#6 rs ra 0#5 58#10 rc
  | .cntlzw ra rs rc => encX 31#6 rs ra 0#5 26#10 rc
  | .rldicl ra rs sh mb rc => encMD 30#6 rs ra sh mb 0#3 rc
  | .rldicr ra rs sh me rc => encMD 30#6 rs ra sh me 1#3 rc
  | .rldic ra rs sh mb rc => encMD 30#6 rs ra sh mb 2#3 rc
  | .rlwinm ra rs sh mb me rc => encM 21#6 rs ra sh mb me rc
  | .rldcl ra rs rb mb rc => encMDS 30#6 rs ra rb mb 8#4 rc
  | .rldcr ra rs rb me rc => encMDS 30#6 rs ra rb me 9#4 rc
  | .rlwnm ra rs rb mb me rc => encM 23#6 rs ra rb mb me rc
  | .rldimi ra rs sh mb rc => encMD 30#6 rs ra sh mb 3#3 rc
  | .rlwimi ra rs sh mb me rc => encM 20#6 rs ra sh mb me rc
  | .sld ra rs rb rc => encX 31#6 rs ra rb 27#10 rc
  | .slw ra rs rb rc => encX 31#6 rs ra rb 24#10 rc
  | .srd ra rs rb rc => encX 31#6 rs ra rb 539#10 rc
  | .srw ra rs rb rc => encX 31#6 rs ra rb 536#10 rc
  | .sradi ra rs sh rc => encXS 31#6 rs ra sh 413#9 rc
  | .srawi ra rs sh rc => encX 31#6 rs ra sh 824#10 rc
  | .srad ra rs rb rc => encX 31#6 rs ra rb 794#10 rc
  | .sraw ra rs rb rc => encX 31#6 rs ra rb 792#10 rc
  | .mtspr spr rs => encX 31#6 rs (lo5 spr) (hi5 spr) 467#10 false
  | .mfspr rt spr => encX 31#6 rt (lo5 spr) (hi5 spr) 339#10 false
  | .mtcrf fxm rs => encXFX 31#6 rs false fxm 144#10
  | .mfcr rt => encXFX 31#6 rt false 0#8 19#10
  | .mtocrf fxm rs => encXFX 31#6 rs true fxm 144#10
  | .mfocrf rt fxm => encXFX 31#6 rt true fxm 19#10
  | .mcrxr bf => encX 31#6 (bf ++ 0#2) 0#5 0#5 512#10 false
  | .lfs frt d ra => encD 48#6 frt ra d
  | .lfsx frt ra rb => encX 31#6 frt ra rb 535#10 false
  | .lfsu frt d ra => encD 49#6 frt ra d
  | .lfsux frt ra rb => encX 31#6 frt ra rb 567#10 false
  | .lfd frt d ra => encD 50#6 frt ra d
  | .lfdx frt ra rb => encX 31#6 frt ra rb 599#10 false
  | .lfdu frt d ra => encD 51#6 frt ra d
  | .lfdux frt ra rb => encX 31#6 frt ra rb 631#10 false
  | .stfs frs d ra => encD 52#6 frs ra d
  | .stfsx frs ra rb => encX 31#6 frs ra rb 663#10 false
  | .stfsu frs d ra => encD 53#6 frs ra d
  | .stfsux frs ra rb => encX 31#6 frs ra rb 695#10 false
  | .stfd frs d ra => encD 54#6 frs ra d
  | .stfdx frs ra rb => encX 31#6 frs ra rb 727#10 false
  | .stfdu frs d ra => encD 55#6 frs ra d
  | .stfdux frs ra rb => encX 31#6 frs ra rb 759#10 false
  | .stfiwx frs ra rb => encX 31#6 frs ra rb 983#10 false
  | .fmr frt frb rc => encX 63#6 frt 0#5 frb 72#10 rc
  | .fneg frt frb rc => encX 63#6 frt 0#5 frb 40#10 rc
  | .fabs frt frb rc => encX 63#6 frt 0#5 frb 264#10 rc
  | .fnabs frt frb rc => encX 63#6 frt 0#5 frb 136#10 rc
  | .fadd frt fra frb rc => encA 63#6 frt fra frb 0#5 21#5 rc
  | .fadds frt fra frb rc => encA 59#6 frt fra frb 0#5 21#5 rc
  | .fsub frt fra frb rc => encA 63#6 frt fra frb 0#5 20#5 rc
  | .fsubs frt fra frb rc => encA 59#6 frt fra frb 0#5 20#5 rc
  | .fmul frt fra frc rc => encA 63#6 frt fra 0#5 frc 25#5 rc
  | .fmuls frt fra frc rc => encA 59#6 frt fra 0#5 frc 25#5 rc
  | .fdiv frt fra frb rc => encA 63#6 frt fra frb 0#5 18#5 rc
  | .fdivs frt fra frb rc => encA 59#6 frt fra frb 0#5 18#5 rc
  | .fmadd frt fra frc frb rc => encA 63#6 frt fra frb frc 29#5 rc
  | .fmadds frt fra frc frb rc => encA 59#6 frt fra frb frc 29#5 rc
  | .fmsub frt fra frc frb rc => encA 63#6 frt fra frb frc 28#5 rc
  | .fmsubs frt fra frc frb rc => encA 59#6 frt fra frb frc 28#5 rc
  | .fnmadd frt fra frc frb rc => encA 63#6 frt fra frb frc 31#5 rc
  | .fnmadds frt fra frc frb rc => encA 59#6 frt fra frb frc 31#5 rc
  | .fnmsub frt fra frc frb rc => encA 63#6 frt fra frb frc 30#5 rc
  | .fnmsubs frt fra frc frb rc => encA 59#6 frt fra frb frc 30#5 rc
  | .frsp frt frb rc => encX 63#6 frt 0#5 frb 12#10 rc
  | .fctid frt frb rc => encX 63#6 frt 0#5 frb 814#10 rc
  | .fctidz frt frb rc => encX 63#6 frt 0#5 frb 815#10 rc
  | .fctiw frt frb rc => encX 63#6 frt 0#5 frb 14#10 rc
  | .fctiwz frt frb rc => encX 63#6 frt 0#5 frb 15#10 rc
  | .fcfid frt frb rc => encX 63#6 frt 0#5 frb 846#10 rc
  | .fcmpu bf fra frb => encX 63#6 (bf ++ 0#2) fra frb 0#10 false
  | .fcmpo bf fra frb => encX 63#6 (bf ++ 0#2) fra frb 32#10 false
  | .mffs frt rc => encX 63#6 frt 0#5 0#5 583#10 rc
  | .mcrfs bf bfa => encX 63#6 (bf ++ 0#2) (bfa ++ 0#2) 0#5 64#10 false
  | .mtfsfi bf u rc => encX 63#6 (bf ++ 0#2) 0#5 (u ++ 0#1) 134#10 rc
  | .mtfsf flm frb rc => encXFL 63#6 flm frb 711#10 rc
  | .mtfsb0 bt rc => encX 63#6 bt 0#5 0#5 70#10 rc
  | .mtfsb1 bt rc => encX 63#6 bt 0#5 0#5 38#10 rc
  | .fsqrt frt frb rc => encA 63#6 frt 0#5 frb 0#5 22#5 rc
  | .fsqrts frt frb rc => encA 59#6 frt 0#5 frb 0#5 22#5 rc
  | .fres frt frb rc => encA 59#6 frt 0#5 frb 0#5 24#5 rc
  | .frsqrte frt frb rc => encA 63#6 frt 0#5 frb 0#5 26#5 rc
  | .fsel frt fra frc frb rc => encA 63#6 frt fra frb frc 23#5 rc
  | .rfid => encX 19#6 0#5 0#5 0#5 18#10 false
  | .isync => encX 19#6 0#5 0#5 0#5 150#10 false
  | .lwarx => encX 31#6 0#5 0#5 0#5 20#10 false
  | .dcbst => encX 31#6 0#5 0#5 0#5 54#10 false
  | .mfmsr => encX 31#6 0#5 0#5 0#5 83#10 false
  | .ldarx => encX 31#6 0#5 0#5 0#5 84#10 false
  | .dcbf => encX 31#6 0#5 0#5 0#5 86#10 false
  | .mtmsr => encX 31#6 0#5 0#5 0#5 146#10 false
  | .stwcxRc => encX 31#6 0#5 0#5 0#5 150#10 true
  | .mtmsrd => encX 31#6 0#5 0#5 0#5 178#10 false
  | .mtsr => encX 31#6 0#5 0#5 0#5 210#10 false
  | .stdcxRc => encX 31#6 0#5 0#5 0#5 214#10 true
  | .mtsrin => encX 31#6 0#5 0#5 0#5 242#10 false
  | .dcbtst => encX 31#6 0#5 0#5 0#5 246#10 false
  | .dcbt => encX 31#6 0#5 0#5 0#5 278#10 false
  | .tlbie => encX 31#6 0#5 0#5 0#5 306#10 false
  | .eciwx => encX 31#6 0#5 0#5 0#5 310#10 false
  | .tlbia => encX 31#6 0#5 0#5 0#5 370#10 false
  | .mftb => encX 31#6 0#5 0#5 0#5 371#10 false
  | .slbmte => encX 31#6 0#5 0#5 0#5 402#10 false
  | .slbie => encX 31#6 0#5 0#5 0#5 434#10 false
  | .ecowx => encX 31#6 0#5 0#5 0#5 438#10 false
  | .slbia => encX 31#6 0#5 0#5 0#5 498#10 false
  | .tlbsync => encX 31#6 0#5 0#5 0#5 566#10 false
  | .mfsr => encX 31#6 0#5 0#5 0#5 595#10 false
  | .sync => encX 31#6 0#5 0#5 0#5 598#10 false
  | .mfsrin => encX 31#6 0#5 0#5 0#5 659#10 false
  | .slbmfev => encX 31#6 0#5 0#5 0#5 851#10 false
  | .eieio => encX 31#6 0#5 0#5 0#5 854#10 false
  | .slbmfee => encX 31#6 0#5 0#5 0#5 915#10 false
  | .icbi => encX 31#6 0#5 0#5 0#5 982#10 false
  | .dcbz => encX 31#6 0#5 0#5 0#5 1014#10 false

end Sys2Proof
end

