-- ==== Sys2Proof/Config.lean ====
section
/-! DEFINITION. What no rule fixes: the oracle for undefined values (R25, D17) and the estimate functions (R12, D18). Each is
a constant without a body, so nothing can be proved of a value of it. The other implementation parameters of R12 are plain
data in State (`Params`). -/
namespace Sys2Proof

/-- The free values: the `n`-th undefined value of a run (R25 (a), D17; log 5). -/
opaque Config.freeValue : Nat → DWord

/-- `FRES_EST` of R12: the raw estimate of `fres` for an operand, the FPSCR and the draw number (R707, D18; log 19). -/
opaque Config.fresEstimate : DWord → Word → Nat → DWord

/-- The exception bits OX and UX that `FRES_EST` reports for a reciprocal outside the single range (R707, D18; log 19). -/
opaque Config.fresExceptions : DWord → Word → Nat → Bool × Bool

/-- `FRSQRTE_EST` of R12: the raw estimate of `frsqrte` (R708, D18; log 19). -/
opaque Config.frsqrteEstimate : DWord → Word → Nat → DWord

end Sys2Proof
end

