-- ==== Sys2Proof/Machine/State.lean ====
section
/-! DEFINITION. The state of the machine as plain data: the user register set of R40, the instruction address, storage, the
implementation parameters of R12, and four fields of the model's own. -/
namespace Sys2Proof.Machine

/-- What an unaligned scalar access does: parameter `UNALIGNED` (R12, R110, D4). -/
inductive Unaligned where
  | perform
  | fault
  deriving DecidableEq, Repr

/-- What a reserved bit of XER or FPSCR reads as: parameter `RESERVED_READS` (R12, R64, D8). -/
inductive ReservedReads where
  | zero
  | lastWritten
  deriving DecidableEq, Repr

/-- The floating-point exception mode, the bits FE0 and FE1: parameter `FE` (R12, R565, D12). -/
inductive FpExceptionMode where
  | ignore
  | impreciseNonrecoverable
  | impreciseRecoverable
  | precise
  deriving DecidableEq, Repr

/-- A range of storage bytes `lo ≤ a < hi` to which some kinds of access are denied (R120, D5). -/
structure Denied where
  lo : Nat
  hi : Nat
  load : Bool
  store : Bool
  fetch : Bool
  deriving DecidableEq, Repr

/-- The implementation parameters of R12, constant during a run. `denied` is the parameter `MEM`: a byte in no denied range is
available for every access (D5). -/
structure Params where
  mode64 : Bool
  leFacility : Bool
  unaligned : Unaligned
  reservedReads : ReservedReads
  fe : FpExceptionMode
  hasOcrf : Bool
  hasFpGp : Bool
  hasFpGfx : Bool
  hasMcrxr : Bool
  hasNi : Bool
  denied : List Denied
  deriving DecidableEq, Repr

/-- The default instance that spec/92_eei_decisions.md recommends for testing, with the Little-Endian facility present (log 1). -/
def Params.default : Params where
  mode64 := true
  leFacility := true
  unaligned := .perform
  reservedReads := .zero
  fe := .precise
  hasOcrf := true
  hasFpGp := true
  hasFpGfx := true
  hasMcrxr := true
  hasNi := false
  denied := []

/-- The eight exceptions of R784, each with the information its outcome carries. -/
inductive Exception where
  /-- The system illegal instruction error handler (R790). -/
  | illegalInstruction (word : Word) (pc : DWord)
  /-- The system privileged instruction error handler (R794). -/
  | privilegedInstruction (word : Word) (pc : DWord)
  /-- The system instruction storage error handler (R791). -/
  | instructionStorage (pc : DWord)
  /-- The system data storage error handler (R792). -/
  | dataStorage (ea : DWord) (isStore : Bool) (pc : DWord)
  /-- The system alignment error handler (R793). -/
  | alignment (ea : DWord) (pc : DWord)
  /-- The system service program (R795). -/
  | systemCall (lev : Bool) (next : DWord)
  /-- The system trap handler (R797). -/
  | trap (pc : DWord)
  /-- The system floating-point enabled exception error handler (R798). -/
  | fpEnabled (pc : DWord)
  deriving DecidableEq, Repr

/-- Why the machine stops with no next state. -/
inductive Fault where
  /-- Raised by an instruction in an invalid form: the illegal instruction handler or boundedly undefined results (R208, R799,
  D7). Safe: the model claims nothing of what follows. -/
  | invalidForm
  /-- Raised by `lswx` when RA or RB is in the range loaded (R331, R799, D16): boundedly undefined results. Safe. -/
  | boundedlyUndefined
  /-- Raised by the fetch of a byte the program has stored into: old or new contents (R130, D6). Safe. -/
  | fetchModified
  /-- Raised by a step while a system handler has control: the run of the program has ended (R783, D24). Safe. -/
  | handlerInControl
  deriving DecidableEq, Repr

/-- Why the model gives an instruction no meaning. -/
inductive Refusal where
  /-- Raised by an arm of `exec` whose instruction has no meaning yet. Safe: nothing is claimed. -/
  | notModelled (mnemonic : String)
  /-- Raised by an instruction of Book II or III whose effect no source gives (R204, D20). Safe: nothing is claimed. -/
  | otherBook (mnemonic : String)
  /-- Raised by a floating-point computational instruction with FPSCR[NI] = 1 (R73, D14): results of Book IV. Safe. -/
  | nonIeeeMode
  deriving DecidableEq, Repr

/-- Storage as (address, byte) pairs in one canonical form (`Memory.wf`). -/
abbrev Memory := List Host.Cell

/-- What a byte that is not listed reads as: no source gives the contents of storage at reset (R90, D5; DESIGN CHOICE, log 3). -/
def Memory.unlisted : Byte := 0

/-- The canonical form: addresses strictly rising and below 2^64 (R100), no byte equal to what an unlisted byte reads as. -/
def Memory.wf : Memory → Bool
  | [] => true
  | (a, b) :: rest =>
    decide (a < 2 ^ 64) && (b != Memory.unlisted) &&
      (match rest with
        | [] => true
        | (c, _) :: _ => decide (a < c)) && Memory.wf rest

/-- The machine's state. -/
structure State where
  /-- GPR 0 to GPR 31 (R41). -/
  gpr : Vector DWord 32
  /-- FPR 0 to FPR 31 (R43). -/
  fpr : Vector DWord 32
  /-- The Condition Register (R47). -/
  cr : Word
  /-- The Link Register (R55). -/
  lr : DWord
  /-- The Count Register (R56). -/
  ctr : DWord
  /-- The Fixed-Point Exception Register (R57). -/
  xer : DWord
  /-- The Floating-Point Status and Control Register (R65). -/
  fpscr : Word
  /-- The address of the current instruction, CIA (R24, R46). -/
  pc : DWord
  /-- LE: the current byte order, set for Little-Endian (R113). -/
  le : Bool
  /-- ILE: the byte order in which the system error handler is entered (R76, R113; log 27). -/
  ile : Bool
  /-- Storage (R100). -/
  mem : Memory
  /-- The implementation parameters (R12). -/
  params : Params
  /-- The model's own: the storage bytes stored into since the program was loaded, strictly rising (R130, D6; log 8). -/
  modified : List Nat
  /-- The model's own: which FPRs hold a value produced by a single-precision instruction, bit `r` for FPR `r` (R640; log 21). -/
  fprSingle : Vector Bool 32
  /-- The model's own: how many free values have been drawn (R25, D17; log 5). -/
  draws : Nat
  /-- The model's own: the exception taken, while a handler has control (R784, D1; log 4). -/
  outcome : Option Exception
  deriving DecidableEq, Repr

/-- The machine after reset: Big-Endian (R90, R830); the source gives nothing else, so every register is 0 (log 2), storage lists
nothing (log 3) and the parameters are the default instance (log 1). -/
def State.reset : State where
  gpr := Vector.replicate 32 0
  fpr := Vector.replicate 32 0
  cr := 0
  lr := 0
  ctr := 0
  xer := 0
  fpscr := 0
  pc := 0
  le := false
  ile := false
  mem := []
  params := Params.default
  modified := []
  fprSingle := Vector.replicate 32 false
  draws := 0
  outcome := none

/-- What running one instruction answers. -/
abbrev Out := Host.Outcome State Fault Refusal

end Sys2Proof.Machine
end

