-- ==== Sys2Proof/Machine/Ops.lean ====
section
/-! DEFINITION. The named operations over registers, free values, storage and the instruction address, taking an exception and
resuming after one. -/
namespace Sys2Proof.Machine

/-! ### Registers -/

/-- `GPR[r]` (R41): no GPR is hardwired. -/
def State.readGpr (s : State) (r : Reg) : DWord := s.gpr[r.toNat]'r.isLt

/-- `GPR[r] <- v`: all 64 bits in both modes (R42). -/
def State.setGpr (s : State) (r : Reg) (v : DWord) : State := { s with gpr := s.gpr.set r.toNat v r.isLt }

/-- `FPR[r]` (R43). -/
def State.readFpr (s : State) (r : Reg) : DWord := s.fpr[r.toNat]'r.isLt

/-- Was the value of `FPR[r]` produced, directly or indirectly, by a single-precision instruction (R640)? -/
def State.isSingle (s : State) (r : Reg) : Bool := s.fprSingle[r.toNat]'r.isLt

/-- `FPR[r] <- v`, with the history of the value for R640. -/
def State.setFpr (s : State) (r : Reg) (v : DWord) (single : Bool) : State :=
  { s with fpr := s.fpr.set r.toNat v r.isLt, fprSingle := s.fprSingle.set r.toNat single r.isLt }

/-- Replace the Condition Register. -/
def State.setCr (s : State) (v : Word) : State := { s with cr := v }

/-- Replace the Link Register. -/
def State.setLr (s : State) (v : DWord) : State := { s with lr := v }

/-- Replace the Count Register. -/
def State.setCtr (s : State) (v : DWord) : State := { s with ctr := v }

/-- Replace XER as a whole; `writeXer` and the flag operations decide the bits. -/
def State.setXer (s : State) (v : DWord) : State := { s with xer := v }

/-- Replace FPSCR as a whole; `Flags.lean` decides the bits. -/
def State.setFpscr (s : State) (v : Word) : State := { s with fpscr := v }

/-- Replace the instruction address. -/
def State.setPc (s : State) (v : DWord) : State := { s with pc := v }

/-! ### Free values (R25, D17) -/

/-- The `k`-th free value an instruction draws: a value no rule fixes. -/
def State.free (s : State) (k : Nat) : DWord := Config.freeValue (s.draws + k)

/-- `n` free values have been drawn. -/
def State.drew (s : State) (n : Nat) : State := { s with draws := s.draws + n }

/-! ### Addresses and the instruction address -/

/-- `sa(x)`, the storage address of an effective address: bits 32:63 in 32-bit mode (R104). -/
def State.sa (s : State) (x : DWord) : DWord := if s.params.mode64 then x else zext64 (loWord x)

/-- `iea(x)`, an instruction effective address (R17, R104). -/
def State.iea (s : State) (x : DWord) : DWord := s.sa x

/-- The address of the next sequential instruction, `iea(pc + 4)` (R46 (c)). -/
def State.nextPc (s : State) : DWord := s.iea (s.pc + 4)

/-- The instruction completed without branching (R46 (c)). -/
def advance (s : State) : State := s.setPc s.nextPc

/-- Bits 0:61 of an address with 0b00 on the right (R46 (a), R221). -/
def wordAligned (x : DWord) : DWord := x &&& ~~~3#64

/-- Little-Endian mode is in effect: the facility exists and LE is 1 (R113). -/
def State.littleEndian (s : State) : Bool := s.params.leFacility && s.le

/-! ### Exceptions (R780 to R798) -/

/-- Taking an exception, `raise X(info)` (R782 to R784, D1): `s` is the state as the exception's rule leaves it, the instruction
address stays at the excepting instruction, and the outcome with its information is recorded for the handler. No handler
address, saved status or mode is described by any source (R783). -/
def takeException (e : Exception) (s : State) : Out := .next { s with outcome := some e }

/-- Resuming the program after a handler: "causes execution to continue at a specified address" (R811), which the host chooses,
together with the byte order it returns in; the recorded outcome is done with. -/
def resumeAt (next : DWord) (littleEndian : Bool) (s : State) : State :=
  { s with pc := s.iea (wordAligned next), le := s.params.leFacility && littleEndian, outcome := none }

/-- The byte order in which the system error handler is entered (R113): ILE, where the facility exists. -/
def State.handlerLittleEndian (s : State) : Bool := s.params.leFacility && s.ile

/-! ### Storage -/

/-- The byte at a storage address. -/
def Memory.read : Memory → Nat → Byte
  | [], _ => Memory.unlisted
  | (k, b) :: rest, a => if k = a then b else Memory.read rest a

/-- One byte stored, in the canonical form: the byte an unlisted address reads as is not listed. -/
def Memory.write : Memory → Nat → Byte → Memory
  | [], a, v => if v = Memory.unlisted then [] else [(a, v)]
  | (k, b) :: rest, a, v =>
    if a < k then (if v = Memory.unlisted then (k, b) :: rest else (a, v) :: (k, b) :: rest)
    else if a = k then (if v = Memory.unlisted then rest else (k, v) :: rest)
    else (k, b) :: Memory.write rest a v

/-- Bytes stored at storage addresses, in order. -/
def Memory.writeAll (m : Memory) : List Nat → List Byte → Memory
  | a :: as, b :: bs => Memory.writeAll (Memory.write m a b) as bs
  | _, _ => m

/-- An address entered into a strictly rising list. -/
def insertAddr : List Nat → Nat → List Nat
  | [], a => [a]
  | k :: rest, a => if a < k then a :: k :: rest else if a = k then k :: rest else k :: insertAddr rest a

/-- The byte of storage at a storage address. -/
def State.readByte (s : State) (a : Nat) : Byte := Memory.read s.mem a

/-- One byte stored; the address is from now on modified (R130, D6). -/
def State.writeByte (s : State) (a : Nat) (v : Byte) : State :=
  { s with mem := Memory.write s.mem a v, modified := insertAddr s.modified a }

/-- The storage address of the byte of an `n`-byte scalar at `ea` that is `i` places from the most significant one: in
Big-Endian mode the byte at `sa(ea + i)` (R106); in Little-Endian mode, of significance `k = n - 1 - i`, the byte at
`sa(ea + k) xor 7` (R116, equal to R115 for aligned operands). -/
def State.byteAddr (s : State) (ea : DWord) (n i : Nat) : Nat :=
  if s.littleEndian then (s.sa (ea + BitVec.ofNat 64 (n - 1 - i)) ^^^ 7#64).toNat
  else (s.sa (ea + BitVec.ofNat 64 i)).toNat

/-- The storage addresses of an `n`-byte scalar, most significant byte first. -/
def State.operandAddrs (s : State) (ea : DWord) (n : Nat) : List Nat := (List.range n).map (s.byteAddr ea n)

/-- The addresses at which an access to `n` bytes at `ea` asks for permission: `sa(ea + i)`, in both byte orders (R105, R106;
Little-Endian mode modifies the address of the data alone, R115). -/
def State.checkedAddrs (s : State) (ea : DWord) (n : Nat) : List Nat :=
  (List.range n).map (fun i => (s.sa (ea + BitVec.ofNat 64 i)).toNat)

/-- The value of bytes listed most significant first, extended with zeros to 64 bits. -/
def valueOfBytes (bs : List Byte) : DWord := bs.foldl (fun acc b => (acc <<< 8) ||| zext64 b) 0

/-- The `i`-th most significant byte of the low-order `n` bytes of `v`. -/
def byteOf (v : DWord) (n i : Nat) : Byte := (v >>> (8 * (n - 1 - i))).setWidth 8

/-- `MemRead(ea, n)` without its checks (R106, R115), extended with zeros to 64 bits. -/
def State.loadValue (s : State) (ea : DWord) (n : Nat) : DWord := valueOfBytes ((s.operandAddrs ea n).map s.readByte)

/-- Store bytes at storage addresses, in order. -/
def State.storeBytes (s : State) : List Nat → List Byte → State
  | a :: as, b :: bs => State.storeBytes (s.writeByte a b) as bs
  | _, _ => s

/-- `MemWrite(ea, n, v)` without its checks (R107, R115): the low-order `n` bytes of `v`. -/
def State.storeValue (s : State) (ea : DWord) (n : Nat) (v : DWord) : State :=
  s.storeBytes (s.operandAddrs ea n) ((List.range n).map (byteOf v n))

/-- A kind of access to storage. -/
inductive Access where
  | load
  | store
  | fetch
  deriving DecidableEq, Repr

/-- Does a denied range cover this kind of access to this byte (R120, D5)? -/
def Denied.blocks (d : Denied) (k : Access) (a : Nat) : Bool :=
  decide (d.lo ≤ a) && decide (a < d.hi) &&
    (match k with
      | .load => d.load
      | .store => d.store
      | .fetch => d.fetch)

/-- Is the byte at a storage address available for this kind of access (R120, D5)? -/
def State.available (s : State) (k : Access) (a : Nat) : Bool := s.params.denied.all (fun d => !d.blocks k a)

/-- Is `ea` at the natural boundary of an `n`-byte operand (R110)? -/
def aligned (ea : DWord) (n : Nat) : Bool := ea.toNat % n == 0

/-- An operand at `ea` that must be aligned to `n` is unaligned and `UNALIGNED` is fault (R110, R793, D4, D19). -/
def State.misaligned (s : State) (ea : DWord) (n : Nat) : Bool := s.params.unaligned == .fault && !aligned ea n

/-- The exception an access to the `n`-byte scalar at `ea` raises, if any: Alignment before DataStorage (R785, D22), the latter
if a byte `sa(ea + i)` is not available (R106, R107). -/
def State.accessFault (s : State) (k : Access) (ea : DWord) (n : Nat) : Option Exception :=
  if s.misaligned ea n then some (.alignment ea s.pc)
  else if (s.checkedAddrs ea n).all (s.available k) then none
  else some (.dataStorage ea (k == .store) s.pc)

/-- Complete an instruction whose accesses raise no exception, or take the exception: nothing is changed before (R121, D1). -/
def guarded (e : Option Exception) (s done : State) : Out :=
  match e with
  | some x => takeException x s
  | none => .next (advance done)

/-! ### Instruction fetch (R108, R791) -/

/-- The storage addresses of the four bytes of the current instruction, most significant first: `iea(pc)` with the low-order two
bits ignored (R46 (a)), exclusive-ORed with 4 in Little-Endian mode (R115). -/
def State.fetchAddrs (s : State) : List Nat := s.operandAddrs (wordAligned s.pc) 4

/-- The instruction word at the current instruction address (R108). -/
def State.currentWord (s : State) : Word := loWord (s.loadValue (wordAligned s.pc) 4)

/-- The bytes of the instruction word at the current instruction address (R108). -/
def State.fetchBytes (s : State) : List Byte := s.fetchAddrs.map s.readByte

/-- What a fetch finds. -/
inductive Fetched where
  /-- One of the bytes is not available for execution (R791). -/
  | unavailable
  /-- One of the bytes has been stored into during the run (R130, D6). -/
  | modified
  /-- The instruction's bytes. -/
  | bytes (bs : List Byte)
  deriving DecidableEq, Repr

/-- `Fetch(pc)` (R108, R791, D6): each of the bytes `iea(pc)` to `iea(pc) + 3` must be available for execution. -/
def State.fetch (s : State) : Fetched :=
  if !((s.checkedAddrs (wordAligned s.pc) 4).all (s.available .fetch)) then .unavailable
  else if s.fetchAddrs.any (s.modified.contains ·) then .modified
  else .bytes s.fetchBytes

/-- Illegal instruction exception for the current instruction (R790). -/
def illegal (s : State) : Out := takeException (.illegalInstruction s.currentWord s.pc) s

/-- Privileged instruction exception for the current instruction (R794). -/
def privileged (s : State) : Out := takeException (.privilegedInstruction s.currentWord s.pc) s

end Sys2Proof.Machine
end

