-- ==== Sys2Proof/Machine/Flags.lean ====
section
/-! DEFINITION. The status settings: XER (R57 to R64), CR fields CR0, CR1 and BF (R48 to R54), and the FPSCR's sticky, summary
and reserved bits (R64 to R74, R561, R568). -/
namespace Sys2Proof.Machine

/-! ### XER -/

/-- The defined bits of XER: SO, OV, CA and the byte count (R57). -/
def xerDefined : DWord := 0xE000007F#64

/-- XER as an instruction reads it: reserved bits per `RESERVED_READS` (R64, D8). -/
def State.readXer (s : State) : DWord :=
  match s.params.reservedReads with
  | .zero => s.xer &&& xerDefined
  | .lastWritten => s.xer

/-- A write of the whole of XER: reserved bits are dropped or kept (R64, D8). -/
def State.writeXer (s : State) (v : DWord) : State :=
  match s.params.reservedReads with
  | .zero => s.setXer (v &&& xerDefined)
  | .lastWritten => s.setXer v

/-- `XER.SO` (R60). -/
def State.so (s : State) : Bool := bitAt s.xer 32

/-- `XER.OV` (R61). -/
def State.ov (s : State) : Bool := bitAt s.xer 33

/-- `XER.CA` (R62). -/
def State.ca (s : State) : Bool := bitAt s.xer 34

/-- The byte count `XER[57:63]` (R63). -/
def State.byteCount (s : State) : Nat := (fld s.xer 57 7).toNat

/-- `XER.CA <- b` (R62). -/
def State.setCa (s : State) (b : Bool) : State := s.setXer (setBitAt s.xer 34 b)

/-- `XER.OV <- ov; XER.SO <- XER.SO | ov` (R60, R61). -/
def State.setOv (s : State) (ov : Bool) : State := s.setXer (setBitAt (setBitAt s.xer 33 ov) 32 (s.so || ov))

/-- The overflow setting of an instruction with the OE bit (R60). -/
def State.setOvIf (s : State) (oe ov : Bool) : State := if oe then s.setOv ov else s

/-! ### CR -/

/-- `CRF[n]`, bits 4n to 4n+3 of CR (R47). -/
def State.crField (s : State) (n : FieldNum) : BitVec 4 := fld s.cr (4 * n.toNat) 4

/-- `CRF[n] <- v` (R47). -/
def State.setCrField (s : State) (n : FieldNum) (v : BitVec 4) : State := s.setCr (setFld s.cr (4 * n.toNat) v)

/-- `CR[b]` (R47). -/
def State.crBit (s : State) (b : BitNum) : Bool := bitAt s.cr b.toNat

/-- `CR[b] <- v` (R240). -/
def State.setCrBit (s : State) (b : BitNum) (v : Bool) : State := s.setCr (setBitAt s.cr b.toNat v)

/-- A 4-bit value from its bits, bit 0 first. -/
def nibble (b0 b1 b2 b3 : Bool) : BitVec 4 := bit b0 ++ bit b1 ++ bit b2 ++ bit b3

/-- LT, GT, EQ, SO of a signed comparison (R49, R54). -/
def signedOrder {w : Nat} (a b : BitVec w) (so : Bool) : BitVec 4 :=
  nibble (decide (a.toInt < b.toInt)) (decide (b.toInt < a.toInt)) (a == b) so

/-- LT, GT, EQ, SO of an unsigned comparison (R49, R54). -/
def unsignedOrder {w : Nat} (a b : BitVec w) (so : Bool) : BitVec 4 :=
  nibble (decide (a.toNat < b.toNat)) (decide (b.toNat < a.toNat)) (a == b) so

/-- The standard CR0 value for a result: bits M:63 compared with zero, and SO (R52). -/
def State.cr0Of (s : State) (res : DWord) : BitVec 4 :=
  if s.params.mode64 then signedOrder res 0 s.so else signedOrder (loWord res) 0 s.so

/-- The standard CR0 setting; SO is the value after the instruction's own update of XER (R52). -/
def State.setCr0 (s : State) (res : DWord) : State := s.setCrField 0 (s.cr0Of res)

/-- The CR0 setting of an instruction with the Rc bit (R52). -/
def State.setCr0If (s : State) (rc : Bool) (res : DWord) : State := if rc then s.setCr0 res else s

/-- CR0 of a result some portion of which is undefined: bits 0:2 undefined, bit 3 SO (R52, R382). -/
def State.setCr0Free (s : State) (v : DWord) : State :=
  s.setCrField 0 (nibble (bitAt v 61) (bitAt v 62) (bitAt v 63) s.so)

/-! ### FPSCR -/

/-- The exception bits of the FPSCR that an instruction's operation can set (R65, R561). -/
inductive FpExc where
  | ox | ux | zx | xx | vxsnan | vxisi | vxidi | vxzdz | vximz | vxvc | vxsqrt | vxcvi
  deriving DecidableEq, Repr

/-- The FPSCR bit of an exception (R65). -/
def FpExc.bit : FpExc → Nat
  | .ox => 3 | .ux => 4 | .zx => 5 | .xx => 6 | .vxsnan => 7 | .vxisi => 8 | .vxidi => 9 | .vxzdz => 10 | .vximz => 11
  | .vxvc => 12 | .vxsqrt => 22 | .vxcvi => 23

/-- The FPSCR bit that enables an exception: VE, OE, UE, ZE or XE (R65, R522). -/
def FpExc.enable : FpExc → Nat
  | .ox => 25 | .ux => 26 | .zx => 27 | .xx => 28
  | .vxsnan | .vxisi | .vxidi | .vxzdz | .vximz | .vxvc | .vxsqrt | .vxcvi => 24

/-- The numbers of the exception bits, 3:12 and 21:23 (R66). -/
def exceptionBits : List Nat := [3, 4, 5, 6, 7, 8, 9, 10, 11, 12, 21, 22, 23]

/-- The exception bits with their enable bits (R695). -/
def exceptionPairs : List (Nat × Nat) :=
  [(3, 25), (4, 26), (5, 27), (6, 28), (7, 24), (8, 24), (9, 24), (10, 24), (11, 24), (12, 24), (21, 24), (22, 24), (23, 24)]

/-- `FPSCR.VX`: the OR of the Invalid Operation exception bits (R69). -/
def vxOf (f : Word) : Bool := [7, 8, 9, 10, 11, 12, 21, 22, 23].any (bitAt f)

/-- `FPSCR.FEX`: the OR of the exception bits masked by their enable bits (R68). -/
def fexOf (f : Word) : Bool :=
  (vxOf f && bitAt f 24) || (bitAt f 3 && bitAt f 25) || (bitAt f 4 && bitAt f 26) || (bitAt f 5 && bitAt f 27) ||
    (bitAt f 6 && bitAt f 28)

/-- The FPSCR with its summary bits FEX and VX as the ORs (R68, R69). -/
def summarized (f : Word) : Word := setBitAt (setBitAt f 2 (vxOf f)) 1 (fexOf f)

/-- The reserved bits of the FPSCR: bit 20, and NI where non-IEEE mode is not implemented (R65, R73). -/
def State.fpscrReserved (s : State) : Word := if s.params.hasNi then 0x00000800#32 else 0x00000804#32

/-- The FPSCR as an instruction reads it: FEX and VX as the ORs, reserved bits per `RESERVED_READS` (R64, R68, R69). -/
def State.readFpscr (s : State) : Word :=
  match s.params.reservedReads with
  | .zero => summarized s.fpscr &&& ~~~s.fpscrReserved
  | .lastWritten => summarized s.fpscr

/-- A write of the FPSCR: bits 1 and 2 are of no account, reserved bits are dropped or kept (R695, R64). -/
def State.writeFpscr (s : State) (v : Word) : State :=
  match s.params.reservedReads with
  | .zero => s.setFpscr (summarized (v &&& ~~~s.fpscrReserved))
  | .lastWritten => s.setFpscr (summarized v)

/-- `SetExc(B)`: the bits become 1, FX too if one of them was 0 (R561, R67). -/
def setExc (f : Word) (es : List FpExc) : Word :=
  let fx := bitAt f 0 || es.any (fun e => !bitAt f e.bit)
  setBitAt (es.foldl (fun g e => setBitAt g e.bit true) f) 0 fx

/-- Did an exception that occurred have its enable bit 1 (R568)? -/
def causedBy (f : Word) (es : List FpExc) : Bool := es.any (fun e => bitAt f e.enable)

/-- Is some exception bit together with its enable bit 1 in `new` and not in `old` (R695, D12)? -/
def movedCause (old new : Word) : Bool :=
  exceptionPairs.any (fun p => (bitAt new p.1 && bitAt new p.2) && !(bitAt old p.1 && bitAt old p.2))

/-- `CR[4:7] <- FPSCR[0:3]` for an instruction with the Rc bit (R53). -/
def State.setCr1If (s : State) (rc : Bool) : State := if rc then s.setCrField 1 (fld s.readFpscr 0 4) else s

/-- The rounding mode `FPSCR.RN` (R74). -/
def rnOf (f : Word) : BitVec 2 := fld f 30 2

/-- Non-IEEE mode is implemented and on (R73, D14). -/
def State.nonIeee (s : State) : Bool := s.params.hasNi && bitAt s.fpscr 29

/-- `FPFinish(Rc, caused)`: CR1, then the enabled exception unless FE is Ignore, else completion (R568, R812). -/
def fpFinish (rc caused : Bool) (s : State) : Out :=
  let s1 := s.setCr1If rc
  if caused && s.params.fe != .ignore then takeException (.fpEnabled s.pc) s1 else .next (advance s1)

end Sys2Proof.Machine
end

