-- ==== Sys2Proof/Machine/Operands.lean ====
section
/-! DEFINITION. The operand forms: (RA|0), effective addresses by instruction form (R101, R102), immediates, shift counts and
masks, and the register ranges of the multiple and string instructions. -/
namespace Sys2Proof.Machine

/-- `RA0`: 0 when the field is 0, else `GPR[RA]` (R16, R102). -/
def State.ra0 (s : State) (ra : Reg) : DWord := if ra = 0 then 0 else s.readGpr ra

/-- D-form effective address `RA0 + sext_64(D)` (R101). -/
def State.eaD (s : State) (ra : Reg) (d : BitVec 16) : DWord := s.ra0 ra + sext64 d

/-- DS-form effective address `RA0 + sext_64(DS || 0b00)` (R101). -/
def State.eaDS (s : State) (ra : Reg) (ds : BitVec 14) : DWord := s.ra0 ra + sext64 (ds ++ 0#2)

/-- X-form effective address `RA0 + GPR[RB]` (R101). -/
def State.eaX (s : State) (ra rb : Reg) : DWord := s.ra0 ra + s.readGpr rb

/-- A branch displacement or target: the field with 0b00 on the right, sign-extended (R170 LI, BD). -/
def branchOffset {w : Nat} (x : BitVec w) : DWord := sext64 (x ++ 0#2)

/-- The target of a branch with an immediate field (R221): absolute with AA = 1, else relative to the branch itself. -/
def State.branchTarget (s : State) (off : DWord) (aa : Bool) : DWord := if aa then off else s.pc + off

/-- An immediate shifted left 16 bits, `SI || 0x0000` sign-extended (R356). -/
def shiftedSI (si : BitVec 16) : DWord := sext64 (si ++ 0#16)

/-- An unsigned immediate shifted left 16 bits (R422). -/
def shiftedUI (ui : BitVec 16) : DWord := zext64 (ui ++ 0#16)

/-- `ROTL64(x, n)` (R21): rotation left by `n` modulo 64. -/
def rotl64 (x : DWord) (n : Nat) : DWord := x.rotateLeft n

/-- `ROTL32(x, n)` (R21): the rotated word in both halves. -/
def rotl32 (x : Word) (n : Nat) : DWord := rotl64 (x ++ x) n

/-- `MASK(mb, me)` (R22): 1-bits from bit `mb` through bit `me`, wrapping. -/
def mask64 (mb me : Nat) : DWord :=
  let fromMb := BitVec.allOnes 64 >>> mb
  let toMe := BitVec.allOnes 64 <<< (63 - me)
  if mb ≤ me then fromMb &&& toMe else fromMb ||| toMe

/-- `CEIL(n / 4)`: the registers that hold `n` bytes (R330). -/
def regsFor (n : Nat) : Nat := (n + 3) / 4

/-- Is register `r` among the `nr` registers from `rt` on, wrapping from 31 to 0 (R330)? -/
def inRange (rt : Reg) (nr : Nat) (r : Reg) : Bool := decide ((r - rt).toNat < nr)

/-- The byte count of an immediate string instruction: 32 when NB is 0 (R330). -/
def nbCount (nb : BitVec 5) : Nat := if nb = 0 then 32 else nb.toNat

/-- The register `k` places after `r`, wrapping from 31 to 0 (R325). -/
def regAfter (r : Reg) (k : Nat) : Reg := r + BitVec.ofNat 5 k

/-- The bits of CR or FPSCR that belong to the fields a field mask selects (R503, R699). -/
def fieldMask (fxm : BitVec 8) : Word :=
  (List.range 8).foldl (fun m i => if bitAt fxm i then m ||| ones 32 (4 * i) 4 else m) 0

/-- `old` with the fields that a field mask selects taken from `v` (R503, R699). -/
def replaceFields (old v : Word) (fxm : BitVec 8) : Word := (v &&& fieldMask fxm) ||| (old &&& ~~~fieldMask fxm)

/-! ### Invalid forms that the encoding shows (R208) -/

/-- A fixed-point load with update is invalid when RA = 0 or RA = RT (R262). -/
def badLoadUpdate (rt ra : Reg) : Bool := ra == 0 || ra == rt

/-- A store or floating-point access with update is invalid when RA = 0 (R262, R620). -/
def badUpdate (ra : Reg) : Bool := ra == 0

/-- `lmw` is invalid when RA is in RT..31 (R320). -/
def badMultiple (rt ra : Reg) : Bool := decide (rt ≤ ra)

/-- `lswi` is invalid when RA is in the range loaded (R330). -/
def badStringImm (rt ra : Reg) (nb : BitVec 5) : Bool := inRange rt (regsFor (nbCount nb)) ra

/-- `lswx` is invalid when RT = RA or RT = RB (R331). -/
def badStringIdx (rt ra rb : Reg) : Bool := rt == ra || rt == rb

/-- `bcctr` is invalid when BO[2] = 0 (R233). -/
def badCountBranch (bo : BitVec 5) : Bool := !bitAt bo 2

end Sys2Proof.Machine
end

