-- ==== Sys2Proof/Machine/Branch.lean ====
section
/-! DEFINITION. The Branch Processor's instructions: branches, system call, CR logical, CR field (R220 to R249). -/
namespace Sys2Proof.Machine

/-! ### What the branches share -/

/-- The CTR decrement of BO[2] = 0: all 64 bits, in either mode (R226). -/
def State.decremented (s : State) (bo : BitVec 5) : State := if bitAt bo 2 then s else s.setCtr (s.ctr - 1)

/-- `CTR[M:63] = 0` (R222, R45). -/
def State.ctrZero (s : State) : Bool := if s.params.mode64 then s.ctr == 0 else loWord s.ctr == 0

/-- `ctr_ok` of R231, on the state after the decrement. -/
def State.ctrOk (s : State) (bo : BitVec 5) : Bool := bitAt bo 2 || ((!s.ctrZero) ^^ bitAt bo 3)

/-- `cond_ok` of R231. -/
def State.condOk (s : State) (bo : BitVec 5) (bi : BitNum) : Bool := bitAt bo 0 || (s.crBit bi == bitAt bo 1)

/-- The return address into LR, taken or not (R225). -/
def State.linkIf (s : State) (lk : Bool) : State := if lk then s.setLr s.nextPc else s

/-- Continue at the target when the branch is taken (R221), else at the next instruction. -/
def State.branchIf (s : State) (taken : Bool) (target : DWord) : State :=
  if taken then s.setPc (s.iea target) else advance s

/-- A conditional branch that may decrement CTR (R231, R232): `target` is computed before LR is written (R225). -/
def branchConditional (bo : BitVec 5) (bi : BitNum) (target : DWord) (lk : Bool) (s : State) : Out :=
  let s1 := s.decremented bo
  .next ((s1.linkIf lk).branchIf (s1.ctrOk bo && s1.condOk bo bi) target)

/-! ### Branches -/

/-- `b` (R230). -/
def execB (li : BitVec 24) (aa lk : Bool) (s : State) : Out :=
  .next ((s.linkIf lk).branchIf true (s.branchTarget (branchOffset li) aa))

/-- `bc` (R231). -/
def execBc (bo : BitVec 5) (bi : BitNum) (bd : BitVec 14) (aa lk : Bool) (s : State) : Out :=
  branchConditional bo bi (s.branchTarget (branchOffset bd) aa) lk s

/-- `bclr` (R232): the target is the old LR; BH is a hint (R224). -/
def execBclr (bo : BitVec 5) (bi : BitNum) (_bh : BitVec 2) (lk : Bool) (s : State) : Out :=
  branchConditional bo bi (wordAligned s.lr) lk s

/-- `bcctr` (R233): invalid with BO[2] = 0; BH is a hint (R224). -/
def execBcctr (bo : BitVec 5) (bi : BitNum) (_bh : BitVec 2) (lk : Bool) (s : State) : Out :=
  if badCountBranch bo then .fault .invalidForm
  else .next ((s.linkIf lk).branchIf (s.condOk bo bi) (wordAligned s.ctr))

/-- `sc` (R234, R795, D10): of LEV only the rightmost bit is information. -/
def execSc (lev : BitVec 7) (one : Bool) (s : State) : Out :=
  if one then takeException (.systemCall (bitAt lev 6) s.nextPc) s else .fault .invalidForm

/-! ### Condition Register logical instructions (R240) -/

/-- `CR[BT] <- f(CR[BA], CR[BB])`, both read first (R240). -/
def crLogical (f : Bool → Bool → Bool) (bt ba bb : BitNum) (s : State) : Out :=
  .next (advance (s.setCrBit bt (f (s.crBit ba) (s.crBit bb))))

/-- `crand` (R241). -/
def execCrand (bt ba bb : BitNum) (s : State) : Out := crLogical (fun a b => a && b) bt ba bb s

/-- `cror` (R242). -/
def execCror (bt ba bb : BitNum) (s : State) : Out := crLogical (fun a b => a || b) bt ba bb s

/-- `crxor` (R243). -/
def execCrxor (bt ba bb : BitNum) (s : State) : Out := crLogical (fun a b => a ^^ b) bt ba bb s

/-- `crnand` (R244). -/
def execCrnand (bt ba bb : BitNum) (s : State) : Out := crLogical (fun a b => !(a && b)) bt ba bb s

/-- `crnor` (R245). -/
def execCrnor (bt ba bb : BitNum) (s : State) : Out := crLogical (fun a b => !(a || b)) bt ba bb s

/-- `creqv` (R246). -/
def execCreqv (bt ba bb : BitNum) (s : State) : Out := crLogical (fun a b => a == b) bt ba bb s

/-- `crandc` (R247). -/
def execCrandc (bt ba bb : BitNum) (s : State) : Out := crLogical (fun a b => a && !b) bt ba bb s

/-- `crorc` (R248). -/
def execCrorc (bt ba bb : BitNum) (s : State) : Out := crLogical (fun a b => a || !b) bt ba bb s

/-- `mcrf` (R249). -/
def execMcrf (bf bfa : FieldNum) (s : State) : Out := .next (advance (s.setCrField bf (s.crField bfa)))

end Sys2Proof.Machine
end

