-- ==== Sys2Proof/Machine/FpValue.lean ====
section
/-! DEFINITION. The floating-point model: data formats and classes of value, NaN selection, exact values, rounding and the
delivery of a result (R530 to R600), and the conversions between the formats (R621, R631). -/
namespace Sys2Proof.Machine

/-! ### Formats and classes (R530 to R544) -/

/-- The two data formats (R530). -/
inductive Fmt where
  | single
  | double
  deriving DecidableEq, Repr

/-- `p(fmt)`: the precision of the significand (R531). -/
def Fmt.precision : Fmt → Nat
  | .single => 24
  | .double => 53

/-- `Emin(fmt)` (R531). -/
def Fmt.emin : Fmt → Int
  | .single => -126
  | .double => -1022

/-- `Emax(fmt)` (R531). -/
def Fmt.emax : Fmt → Int
  | .single => 127
  | .double => 1023

/-- `adj(fmt)`: the exponent adjustment of an enabled overflow or underflow (R581, R586). -/
def Fmt.adjust : Fmt → Int
  | .single => 192
  | .double => 1536

/-- The sign bit of a double pattern (R530). -/
def signOf (x : DWord) : Bool := bitAt x 0

/-- The biased exponent field of a double pattern (R530). -/
def expOf (x : DWord) : Nat := (fld x 1 11).toNat

/-- The fraction field of a double pattern (R530). -/
def fracOf (x : DWord) : Nat := (fld x 12 52).toNat

/-- `IsNaN` (R532). -/
def isNaN (x : DWord) : Bool := expOf x == 2047 && fracOf x != 0

/-- `IsQNaN` (R532, R541). -/
def isQNaN (x : DWord) : Bool := isNaN x && bitAt x 12

/-- `IsSNaN` (R532, R541). -/
def isSNaN (x : DWord) : Bool := isNaN x && !bitAt x 12

/-- `IsInf` (R532). -/
def isInf (x : DWord) : Bool := expOf x == 2047 && fracOf x == 0

/-- `IsZero` (R532). -/
def isZero (x : DWord) : Bool := expOf x == 0 && fracOf x == 0

/-- `x` with the sign bit replaced. -/
def withSign (neg : Bool) (x : DWord) : DWord := setBitAt x 0 neg

/-- `x` with the sign bit inverted (R650). -/
def negated (x : DWord) : DWord := withSign (!signOf x) x

/-- `Inf(s)` (R532). -/
def infinity (neg : Bool) : DWord := withSign neg 0x7FF0000000000000#64

/-- The zero of a sign, `Enc(s, 0)` (R532). -/
def zeroOf (neg : Bool) : DWord := withSign neg 0

/-- `Quiet(x)` (R541). -/
def quiet (x : DWord) : DWord := setBitAt x 12 true

/-- The generated QNaN (R543). -/
def generatedQNaN : DWord := 0x7FF8000000000000#64

/-- `NaNResult` (R542) of the operands an instruction has, in the order FRA, FRB, FRC. -/
def nanResult (operands : List DWord) : DWord := quiet ((operands.find? isNaN).getD generatedQNaN)

/-- Is the magnitude below 2^-126 and not 0: a denormalized number of the single format (R544, R556)? -/
def belowSingleNormal (x : DWord) : Bool := decide (expOf x < 897) && !isZero x

/-- `FPRFof(x)` (R544). `denormal` says whether a number counts as denormalized. -/
def fprfWith (denormal : Bool) (x : DWord) : BitVec 5 :=
  if isNaN x then 0b10001#5
  else if isInf x then (if signOf x then 0b01001#5 else 0b00101#5)
  else if isZero x then (if signOf x then 0b10010#5 else 0b00010#5)
  else if denormal then (if signOf x then 0b11000#5 else 0b10100#5)
  else (if signOf x then 0b01000#5 else 0b00100#5)

/-- The class of a result of an instruction of precision `fmt`: `FPRFof` or `FPRFof_S` (R544). -/
def fprfOf (fmt : Fmt) (x : DWord) : BitVec 5 :=
  match fmt with
  | .double => fprfWith (expOf x == 0) x
  | .single => fprfWith (belowSingleNormal x) x

/-! ### Exact values -/

/-- A finite magnitude: `man × 2^exp`. -/
structure Magnitude where
  man : Nat
  exp : Int
  deriving DecidableEq, Repr

/-- `|Val(x)|` of a finite double pattern (R532). -/
def magOf (x : DWord) : Magnitude :=
  if expOf x = 0 then ⟨fracOf x, -1074⟩ else ⟨2 ^ 52 + fracOf x, (expOf x : Int) - 1075⟩

/-- An exact intermediate result: sign and magnitude `man × 2^exp`, plus, when `more`, something positive below `2^exp` (R557:
"infinite precision and unbounded exponent range"). -/
structure Exact where
  neg : Bool
  man : Nat
  exp : Int
  more : Bool
  deriving DecidableEq, Repr

/-- `man × 2^k` for `k ≥ 0`, the integer part of it for `k < 0`. -/
def scaleNat (man : Nat) (k : Int) : Nat := if 0 ≤ k then man * 2 ^ k.toNat else man / 2 ^ (-k).toNat

/-- The exact sum of two signed magnitudes (R650, R660). -/
def exactSum (aNeg : Bool) (a : Magnitude) (bNeg : Bool) (b : Magnitude) : Exact :=
  let e := min a.exp b.exp
  let x : Int := (scaleNat a.man (a.exp - e) : Nat)
  let y : Int := (scaleNat b.man (b.exp - e) : Nat)
  let z := (if aNeg then -x else x) + (if bNeg then -y else y)
  ⟨decide (z < 0), z.natAbs, e, false⟩

/-- The exact product of two magnitudes. -/
def magProduct (a b : Magnitude) : Magnitude := ⟨a.man * b.man, a.exp + b.exp⟩

/-- The exact quotient of two nonzero magnitudes, to 67 bits or more and what is left. -/
def exactQuotient (neg : Bool) (a b : Magnitude) : Exact :=
  let n := a.man * 2 ^ 120
  ⟨neg, n / b.man, a.exp - b.exp - 120, n % b.man != 0⟩

/-- The integer square root, one binary digit for each unit of the first argument. -/
def isqrt : Nat → Nat → Nat
  | 0, _ => 0
  | k + 1, n =>
    let r := 2 * isqrt k (n / 4)
    if (r + 1) * (r + 1) ≤ n then r + 1 else r

/-- A magnitude with an even exponent. -/
def evenExp (a : Magnitude) : Magnitude := if a.exp % 2 = 0 then a else ⟨2 * a.man, a.exp - 1⟩

/-- The exact square root of a nonzero magnitude, to 60 bits or more and what is left (R705). -/
def exactSqrt (a : Magnitude) : Exact :=
  let b := evenExp a
  let n := b.man * 2 ^ 120
  let r := isqrt 100 n
  ⟨false, r, (b.exp - 120) / 2, r * r != n⟩

/-- `Enc(s, man × 2^exp)` (R532), exact for every value that has a double pattern. -/
def encode64 (neg : Bool) (man : Nat) (exp : Int) : DWord :=
  if man = 0 then zeroOf neg
  else
    let e := (man.log2 : Int) + exp
    if -1022 ≤ e then
      bit neg ++ BitVec.ofNat 11 (e + 1023).toNat ++ BitVec.ofNat 52 (scaleNat man (52 - (man.log2 : Int)))
    else withSign neg (BitVec.ofNat 64 (scaleNat man (exp + 1074)))

/-! ### Rounding (R557 to R560) -/

/-- A rounded magnitude `man × 2^exp`; was the fraction incremented, is it inexact (R559)? -/
structure Rounded where
  man : Nat
  exp : Int
  inc : Bool
  inexact : Bool
  deriving DecidableEq, Repr

/-- `RoundToPrec` of R559 with `q = 2^qexp`, the weight of the least significant retained bit. -/
def roundTo (x : Exact) (qexp : Int) (rn : BitVec 2) : Rounded :=
  let k := (qexp - x.exp).toNat
  let lo := scaleNat x.man (x.exp - qexp)
  let rem := x.man % 2 ^ k
  let half := 2 ^ k / 2
  let inexact := rem != 0 || x.more
  let above := decide (0 < k) && (decide (half < rem) || (rem == half && x.more))
  let tie := decide (0 < k) && rem == half && !x.more
  let inc :=
    if rn = 0 then above || (tie && lo % 2 == 1)
    else if rn = 1 then false
    else if rn = 2 then inexact && !x.neg
    else inexact && x.neg
  ⟨if inc then lo + 1 else lo, qexp, inc, inexact⟩

/-- What a floating-point operation decides: the value for FRT and the FPRF, unless suppressed (R563), FR, FI, the exceptions that
occurred, and how many free values were drawn. -/
structure FpOut where
  result : Option DWord
  fprf : Option (BitVec 5)
  fr : Bool
  fi : Bool
  occ : List FpExc
  drawn : Nat
  deriving DecidableEq, Repr

/-- A result that needed no rounding (R557). -/
def exactOut (fmt : Fmt) (x : DWord) : FpOut := ⟨some x, some (fprfOf fmt x), false, false, [], 0⟩

/-- An Invalid Operation: suppressed when enabled, else a QNaN (R571, R572). -/
def invalidOut (f : Word) (occ : List FpExc) (nan : DWord) : FpOut :=
  if bitAt f 24 then ⟨none, none, false, false, occ, 0⟩ else ⟨some nan, some 0b10001#5, false, false, occ, 0⟩

/-- A Zero Divide: suppressed when enabled, else an infinity (R576, R577). -/
def zeroDivideOut (f : Word) (neg : Bool) : FpOut :=
  if bitAt f 27 then ⟨none, none, false, false, [.zx], 0⟩
  else ⟨some (infinity neg), some (fprfOf .double (infinity neg)), false, false, [.zx], 0⟩

/-- `MaxFinite(fmt)` with a sign (R582). -/
def maxFinite (fmt : Fmt) (neg : Bool) : DWord :=
  match fmt with
  | .double => withSign neg 0x7FEFFFFFFFFFFFFF#64
  | .single => withSign neg 0x47EFFFFFE0000000#64

/-- `OverflowDefault(fmt, s, rn)` (R582). -/
def overflowDefault (fmt : Fmt) (neg : Bool) (rn : BitVec 2) : DWord :=
  if rn = 0 || (rn = 2 && !neg) || (rn = 3 && neg) then infinity neg else maxFinite fmt neg

/-- A rounded result with an exponent adjustment, and the exceptions of its delivery (R560). -/
def deliver (fmt : Fmt) (neg : Bool) (r : Rounded) (adjust : Int) (occ : List FpExc) : FpOut :=
  let res := encode64 neg r.man (r.exp + adjust)
  ⟨some res, some (fprfOf fmt res), r.inc, r.inexact, occ ++ (if r.inexact then [.xx] else []), 0⟩

/-- `Round(fmt, s, z)` of a nonzero exact result (R560); `freeFr` is the undefined FR of a disabled overflow. -/
def roundResult (fmt : Fmt) (f : Word) (x : Exact) (freeFr : Bool) : FpOut :=
  let rn := rnOf f
  let e : Int := (x.man.log2 : Int) + x.exp
  let prec : Int := (fmt.precision : Nat)
  if e < fmt.emin then
    if bitAt f 26 then deliver .double x.neg (roundTo x (e - prec + 1) rn) fmt.adjust [.ux]
    else
      let r := roundTo x (fmt.emin - prec + 1) rn
      deliver fmt x.neg r 0 (if r.inexact then [.ux] else [])
  else
    let r := roundTo x (e - prec + 1) rn
    if fmt.emax < (r.man.log2 : Int) + r.exp then
      if bitAt f 25 then deliver .double x.neg r (-fmt.adjust) [.ox]
      else
        let res := overflowDefault fmt x.neg rn
        ⟨some res, some (fprfOf .double res), freeFr, true, [.ox, .xx], 1⟩
    else deliver .double x.neg r 0 []

/-- The sign of an exact zero sum of unlike signs (R545). -/
def zeroSumSign (f : Word) : Bool := rnOf f == 3

/-- The delivery of an exact sum, which may be zero (R650 step 5). -/
def roundSum (fmt : Fmt) (f : Word) (x : Exact) (freeFr : Bool) : FpOut :=
  if x.man = 0 then exactOut fmt (zeroOf (zeroSumSign f)) else roundResult fmt f x freeFr

/-! ### Representable in single format (R556) -/

/-- `SingleRepresentable(x)` (R556). -/
def singleRepresentable (x : DWord) : Bool :=
  if isNaN x || isInf x then fracOf x % 2 ^ 29 == 0
  else if belowSingleNormal x then (magOf x).man % 2 ^ (-149 - (magOf x).exp).toNat == 0
  else isZero x || (decide (expOf x ≤ 1150) && fracOf x % 2 ^ 29 == 0)

/-! ### Completion of an instruction (R561, R568) -/

/-- The FPSCR after an operation: exception bits and FX, FR, FI, FPRF, and the summary bits (R561, R70, R71). -/
def fpscrAfter (f : Word) (o : FpOut) : Word :=
  let f1 := setBitAt (setBitAt (setExc f o.occ) 13 o.fr) 14 o.fi
  summarized (match o.fprf with
    | some c => setFld f1 15 c
    | none => f1)

/-- The target FPR, unless the execution is suppressed (R563). -/
def State.deliverFpr (s : State) (frt : Reg) (single : Bool) (r : Option DWord) : State :=
  match r with
  | some v => s.setFpr frt v single
  | none => s

/-- Everything an operation changes, then `FPFinish` (R568). -/
def fpCommit (frt : Reg) (rc single : Bool) (o : FpOut) (s : State) : Out :=
  fpFinish rc (causedBy s.fpscr o.occ) (((s.setFpscr (fpscrAfter s.fpscr o)).deliverFpr frt single o.result).drew o.drawn)

/-- The bits of the FPSCR with the given numbers. -/
def fpscrBits (bits : List Nat) : Word := bits.foldl (fun m b => m ||| ones 32 b 1) 0

/-- `UndefinedSingleResult` (R650, D21): FRT, the named bits of the FPSCR and, with Rc, CR1 are drawn; no enabled exception is
raised on account of them. -/
def undefinedSingle (frt : Reg) (rc : Bool) (bits : List Nat) (s : State) : Out :=
  let m := fpscrBits bits
  let s1 := (s.setFpscr (summarized ((s.fpscr &&& ~~~m) ||| (loWord (s.free 1) &&& m)))).setFpr frt (s.free 0) true
  .next (advance ((if rc then s1.setCrField 1 (fld (s.free 1) 0 4) else s1).drew 2))

/-- The FPSCR bits every single-precision arithmetic instruction lists as altered: FX OX UX XX VXSNAN FR FI FPRF (R650). -/
def arithBits : List Nat := [0, 3, 4, 6, 7, 13, 14, 15, 16, 17, 18, 19]

/-! ### Format conversions of the loads and stores -/

/-- `DOUBLE(WORD)` (R621). -/
def doubleOf (w : Word) : DWord :=
  let e := fld w 1 8
  if e ≠ 0 ∧ e ≠ 255 then fld w 0 2 ++ ~~~fld w 1 1 ++ ~~~fld w 1 1 ++ ~~~fld w 1 1 ++ fld w 2 30 ++ 0#29
  else if e = 0 ∧ fld w 9 23 ≠ 0 then encode64 (bitAt w 0) (fld w 9 23).toNat (-149)
  else fld w 0 2 ++ fld w 1 1 ++ fld w 1 1 ++ fld w 1 1 ++ fld w 2 30 ++ 0#29

/-- Is the word that `SINGLE` gives undefined: exponent below 874 and not a zero (R631)? -/
def singleUndefined (x : DWord) : Bool := decide (expOf x < 874) && !isZero x

/-- `SINGLE(FRS)` where it is defined (R631). -/
def singleOf (x : DWord) : Word :=
  if 896 < expOf x || isZero x then fld x 0 2 ++ fld x 5 30
  else
    let frac : BitVec 64 := (1#1 ++ fld x 12 52 ++ 0#11) >>> (897 - expOf x)
    fld x 0 1 ++ 0#8 ++ fld frac 1 23

end Sys2Proof.Machine
end

