-- ==== Sys2Proof/Machine/FpArith.lean ====
section
/-! DEFINITION. Floating-point arithmetic: elementary operations (R650 to R658), multiply-add (R660 to R668), square root (R705,
R706). -/
namespace Sys2Proof.Machine

/-! ### Elementary operations -/

/-- The four elementary operations (R650). -/
inductive ArithOp where
  | add
  | sub
  | mul
  | div
  deriving DecidableEq, Repr

/-- The Invalid Operation exceptions of an elementary operation; `bx` is FRB as it takes part (R650 step 1). -/
def arithInvalid (op : ArithOp) (a b bx : DWord) : List FpExc :=
  if isSNaN a || isSNaN b then [.vxsnan]
  else if isNaN a || isNaN b then []
  else match op with
    | .add | .sub => if isInf a && isInf bx && signOf a != signOf bx then [.vxisi] else []
    | .mul => if (isInf a && isZero b) || (isZero a && isInf b) then [.vximz] else []
    | .div => if isInf a && isInf b then [.vxidi] else if isZero a && isZero b then [.vxzdz] else []

/-- The exact result that infinities and zeros give, if any (R650 step 4). -/
def arithSpecial (op : ArithOp) (f : Word) (a b bx : DWord) : Option DWord :=
  let x := signOf a ^^ signOf b
  match op with
  | .add | .sub =>
    if isInf a then some a
    else if isInf bx then some bx
    else if isZero a && isZero bx then some (zeroOf (if signOf a == signOf bx then signOf a else zeroSumSign f))
    else none
  | .mul =>
    if isInf a || isInf b then some (infinity x) else if isZero a || isZero b then some (zeroOf x) else none
  | .div =>
    if isInf a then some (infinity x) else if isInf b || isZero a then some (zeroOf x) else none

/-- The exact result of an elementary operation on numbers (R650 step 5). -/
def arithExact (op : ArithOp) (a b bx : DWord) : Exact :=
  match op with
  | .add | .sub => exactSum (signOf a) (magOf a) (signOf bx) (magOf bx)
  | .mul =>
    let p := magProduct (magOf a) (magOf b)
    ⟨signOf a ^^ signOf b, p.man, p.exp, false⟩
  | .div => exactQuotient (signOf a ^^ signOf b) (magOf a) (magOf b)

/-- `FPArith(op, fmt, A, B)` on operands that its format admits (R650). -/
def fpArith (op : ArithOp) (fmt : Fmt) (f : Word) (a b : DWord) (freeFr : Bool) : FpOut :=
  let bx := if op = .sub then negated b else b
  let inv := arithInvalid op a b bx
  if inv ≠ [] then invalidOut f inv (nanResult [a, b])
  else if isNaN a || isNaN b then exactOut fmt (nanResult [a, b])
  else if op = .div && isZero b && !isInf a then zeroDivideOut f (signOf a ^^ signOf b)
  else match arithSpecial op f a b bx with
    | some x => exactOut .double x
    | none => roundSum fmt f (arithExact op a b bx) freeFr

/-- The FPSCR bits that `UndefinedSingleResult` draws beside the common ones (R650). -/
def ArithOp.bits : ArithOp → List Nat
  | .add | .sub => [8]
  | .mul => [11]
  | .div => [5, 9, 10]

/-- The undefined FR bit of a disabled overflow (R582, D17). -/
def State.freeFr (s : State) : Bool := bitAt (s.free 0) 0

/-- An elementary operation in double precision. -/
def arithDouble (op : ArithOp) (frt ra rb : Reg) (rc : Bool) (s : State) : Out :=
  if s.nonIeee then .refused .nonIeeeMode
  else fpCommit frt rc false (fpArith op .double s.fpscr (s.readFpr ra) (s.readFpr rb) s.freeFr) s

/-- An elementary operation in single precision: undefined unless the operands are representable (R650, D21). -/
def arithSingle (op : ArithOp) (frt ra rb : Reg) (rc : Bool) (s : State) : Out :=
  if s.nonIeee then .refused .nonIeeeMode
  else if singleRepresentable (s.readFpr ra) && singleRepresentable (s.readFpr rb) then
    fpCommit frt rc true (fpArith op .single s.fpscr (s.readFpr ra) (s.readFpr rb) s.freeFr) s
  else undefinedSingle frt rc (arithBits ++ op.bits) s

/-- `fadd` (R651). -/
def execFadd (frt fra frb : Reg) (rc : Bool) (s : State) : Out := arithDouble .add frt fra frb rc s

/-- `fadds` (R652). -/
def execFadds (frt fra frb : Reg) (rc : Bool) (s : State) : Out := arithSingle .add frt fra frb rc s

/-- `fsub` (R653). -/
def execFsub (frt fra frb : Reg) (rc : Bool) (s : State) : Out := arithDouble .sub frt fra frb rc s

/-- `fsubs` (R654). -/
def execFsubs (frt fra frb : Reg) (rc : Bool) (s : State) : Out := arithSingle .sub frt fra frb rc s

/-- `fmul` (R655). -/
def execFmul (frt fra frc : Reg) (rc : Bool) (s : State) : Out := arithDouble .mul frt fra frc rc s

/-- `fmuls` (R656). -/
def execFmuls (frt fra frc : Reg) (rc : Bool) (s : State) : Out := arithSingle .mul frt fra frc rc s

/-- `fdiv` (R657). -/
def execFdiv (frt fra frb : Reg) (rc : Bool) (s : State) : Out := arithDouble .div frt fra frb rc s

/-- `fdivs` (R658). -/
def execFdivs (frt fra frb : Reg) (rc : Bool) (s : State) : Out := arithSingle .div frt fra frb rc s

/-! ### Multiply-add (R660) -/

/-- The product of A and C is an infinity times a zero (R660 step 1). -/
def productInvalid (a c : DWord) : Bool := (isInf a && isZero c) || (isZero a && isInf c)

/-- The product of A and C is an infinity (R660 step 1). -/
def productInfinite (a c : DWord) : Bool := !(isNaN a || isNaN c) && !productInvalid a c && (isInf a || isInf c)

/-- The Invalid Operation exceptions of a multiply-add, as of two separate instructions (R660, R562). -/
def mulAddInvalid (a c b bx : DWord) : List FpExc :=
  (if isSNaN a || isSNaN c || isSNaN b then [.vxsnan] else []) ++
  (if productInvalid a c then [.vximz] else []) ++
  (if productInfinite a c && isInf bx && (signOf a ^^ signOf c) != signOf bx then [.vxisi] else [])

/-- The exact result that infinities and zeros give, if any (R660 step 3). -/
def mulAddSpecial (f : Word) (a c bx : DWord) : Option DWord :=
  let ps := signOf a ^^ signOf c
  if productInfinite a c then some (infinity ps)
  else if isInf bx then some bx
  else if (isZero a || isZero c) && isZero bx then some (zeroOf (if ps == signOf bx then ps else zeroSumSign f))
  else none

/-- The result after rounding with its sign inverted, and its class (R660 step 4). -/
def FpOut.negatedIf (o : FpOut) (neg : Bool) (fmt : Fmt) : FpOut :=
  if neg then { o with result := o.result.map negated, fprf := o.result.map (fun r => fprfOf fmt (negated r)) } else o

/-- `FPMulAdd(fmt, sub, neg, A, C, B)` on operands that its format admits (R660). -/
def fpMulAdd (fmt : Fmt) (sub neg : Bool) (f : Word) (a c b : DWord) (freeFr : Bool) : FpOut :=
  let bx := if sub then negated b else b
  let inv := mulAddInvalid a c b bx
  if inv ≠ [] then invalidOut f inv (nanResult [a, b, c])
  else if isNaN a || isNaN b || isNaN c then exactOut fmt (nanResult [a, b, c])
  else match mulAddSpecial f a c bx with
    | some x => exactOut .double (if neg then negated x else x)
    | none =>
      let z := exactSum (signOf a ^^ signOf c) (magProduct (magOf a) (magOf c)) (signOf bx) (magOf bx)
      (roundSum fmt f z freeFr).negatedIf neg fmt

/-- A multiply-add in double precision. -/
def mulAddDouble (sub neg : Bool) (frt ra rc' rb : Reg) (rc : Bool) (s : State) : Out :=
  if s.nonIeee then .refused .nonIeeeMode
  else fpCommit frt rc false (fpMulAdd .double sub neg s.fpscr (s.readFpr ra) (s.readFpr rc') (s.readFpr rb) s.freeFr) s

/-- A multiply-add in single precision: undefined unless the operands are representable (R660, D21). -/
def mulAddSingle (sub neg : Bool) (frt ra rc' rb : Reg) (rc : Bool) (s : State) : Out :=
  if s.nonIeee then .refused .nonIeeeMode
  else if singleRepresentable (s.readFpr ra) && singleRepresentable (s.readFpr rc') && singleRepresentable (s.readFpr rb)
  then fpCommit frt rc true (fpMulAdd .single sub neg s.fpscr (s.readFpr ra) (s.readFpr rc') (s.readFpr rb) s.freeFr) s
  else undefinedSingle frt rc (arithBits ++ [8, 11]) s

/-- `fmadd` (R661). -/
def execFmadd (frt fra frc frb : Reg) (rc : Bool) (s : State) : Out :=
  mulAddDouble false false frt fra frc frb rc s

/-- `fmadds` (R662). -/
def execFmadds (frt fra frc frb : Reg) (rc : Bool) (s : State) : Out :=
  mulAddSingle false false frt fra frc frb rc s

/-- `fmsub` (R663). -/
def execFmsub (frt fra frc frb : Reg) (rc : Bool) (s : State) : Out :=
  mulAddDouble true false frt fra frc frb rc s

/-- `fmsubs` (R664). -/
def execFmsubs (frt fra frc frb : Reg) (rc : Bool) (s : State) : Out :=
  mulAddSingle true false frt fra frc frb rc s

/-- `fnmadd` (R665). -/
def execFnmadd (frt fra frc frb : Reg) (rc : Bool) (s : State) : Out :=
  mulAddDouble false true frt fra frc frb rc s

/-- `fnmadds` (R666). -/
def execFnmadds (frt fra frc frb : Reg) (rc : Bool) (s : State) : Out :=
  mulAddSingle false true frt fra frc frb rc s

/-- `fnmsub` (R667). -/
def execFnmsub (frt fra frc frb : Reg) (rc : Bool) (s : State) : Out :=
  mulAddDouble true true frt fra frc frb rc s

/-- `fnmsubs` (R668). -/
def execFnmsubs (frt fra frc frb : Reg) (rc : Bool) (s : State) : Out :=
  mulAddSingle true true frt fra frc frb rc s

/-! ### Square root (R705) -/

/-- The Invalid Operation exceptions of a square root (R705, R708): a NaN is never negative. -/
def sqrtInvalid (b : DWord) : List FpExc :=
  if isSNaN b then [.vxsnan] else if !isNaN b && signOf b && !isZero b then [.vxsqrt] else []

/-- `FPSqrt(fmt, B)` on an operand that its format admits (R705). -/
def fpSqrt (fmt : Fmt) (f : Word) (b : DWord) (freeFr : Bool) : FpOut :=
  let inv := sqrtInvalid b
  if inv ≠ [] then invalidOut f inv (nanResult [b])
  else if isNaN b || isZero b || isInf b then exactOut .double b
  else roundResult fmt f (exactSqrt (magOf b)) freeFr

/-- `fsqrt` (R705, D13). -/
def execFsqrt (frt frb : Reg) (rc : Bool) (s : State) : Out :=
  if !s.params.hasFpGp then illegal s
  else if s.nonIeee then .refused .nonIeeeMode
  else fpCommit frt rc false (fpSqrt .double s.fpscr (s.readFpr frb) s.freeFr) s

/-- `fsqrts` (R706, D13): undefined unless the operand is representable (D21). -/
def execFsqrts (frt frb : Reg) (rc : Bool) (s : State) : Out :=
  if !s.params.hasFpGp then illegal s
  else if s.nonIeee then .refused .nonIeeeMode
  else if singleRepresentable (s.readFpr frb) then
    fpCommit frt rc true (fpSqrt .single s.fpscr (s.readFpr frb) s.freeFr) s
  else undefinedSingle frt rc [0, 6, 7, 13, 14, 15, 16, 17, 18, 19, 22] s

end Sys2Proof.Machine
end

