-- ==== Sys2Proof/Machine/FpConvert.lean ====
section
/-! DEFINITION. Floating-point rounding and conversion (R669 to R675) and compares (R689 to R691). -/
namespace Sys2Proof.Machine

/-! ### Round to single precision -/

/-- A NaN with the low-order 29 bits zero (R542, R670). -/
def truncatedNaN (b : DWord) : DWord := quiet b &&& ~~~0x1FFFFFFF#64

/-- `frsp` as a value (R670, R610). -/
def fpRoundSingle (f : Word) (b : DWord) (freeFr : Bool) : FpOut :=
  if isSNaN b then invalidOut f [.vxsnan] (truncatedNaN b)
  else if isNaN b then exactOut .double (truncatedNaN b)
  else if isInf b || isZero b then exactOut .double b
  else roundResult .single f ⟨signOf b, (magOf b).man, (magOf b).exp, false⟩ freeFr

/-- `frsp` (R670). -/
def execFrsp (frt frb : Reg) (rc : Bool) (s : State) : Out :=
  if s.nonIeee then .refused .nonIeeeMode
  else fpCommit frt rc true (fpRoundSingle s.fpscr (s.readFpr frb) (bitAt (s.free 0) 0)) s

/-! ### Convert to integer -/

/-- The most positive or most negative integer of `w` bits (R572). -/
def extremeInt (w : Nat) (neg : Bool) : Int := if neg then -(2 ^ (w - 1) : Nat) else (2 ^ (w - 1) : Nat) - 1

/-- The integer result as FRT receives it: in the word form bits 0:31 are undefined (R673, D17). -/
def integerResult (word : Bool) (n : Int) (high : DWord) : DWord :=
  if word then hiWord high ++ BitVec.ofInt 32 n else BitVec.ofInt 64 n

/-- A conversion that is an Invalid Operation (R571, R572): FPRF undefined unless suppressed. -/
def convertInvalid (f : Word) (word : Bool) (occ : List FpExc) (n : Int) (freeFprf high : DWord) : FpOut :=
  if bitAt f 24 then ⟨none, none, false, false, occ, 2⟩
  else ⟨some (integerResult word n high), some (fld freeFprf 0 5), false, false, occ, 2⟩

/-- `FctiModel(B, word, toward_zero)` as values (R671 to R674, R612); the range test is on the rounded value. -/
def fpToInteger (word : Bool) (rn : BitVec 2) (f : Word) (b freeFprf high : DWord) : FpOut :=
  let w := if word then 32 else 64
  if isNaN b then
    convertInvalid f word (if isSNaN b then [.vxsnan, .vxcvi] else [.vxcvi]) (extremeInt w true) freeFprf high
  else if isInf b then convertInvalid f word [.vxcvi] (extremeInt w (signOf b)) freeFprf high
  else
    let r := roundTo ⟨signOf b, (magOf b).man, (magOf b).exp, false⟩ 0 rn
    let n : Int := if signOf b then -(r.man : Int) else (r.man : Int)
    if n < extremeInt w true ∨ extremeInt w false < n then
      convertInvalid f word [.vxcvi] (extremeInt w (signOf b)) freeFprf high
    else
      ⟨some (integerResult word n high), some (fld freeFprf 0 5), r.inc, r.inexact, if r.inexact then [.xx] else [], 2⟩

/-- A conversion to an integer; `towardZero` overrides RN (R558). -/
def convertOut (word towardZero : Bool) (frt frb : Reg) (rc : Bool) (s : State) : Out :=
  if s.nonIeee then .refused .nonIeeeMode
  else
    let rn := if towardZero then 1 else rnOf s.fpscr
    fpCommit frt rc false (fpToInteger word rn s.fpscr (s.readFpr frb) (s.free 0) (s.free 1)) s

/-- `fctid` (R671). -/
def execFctid (frt frb : Reg) (rc : Bool) (s : State) : Out := convertOut false false frt frb rc s

/-- `fctidz` (R672). -/
def execFctidz (frt frb : Reg) (rc : Bool) (s : State) : Out := convertOut false true frt frb rc s

/-- `fctiw` (R673). -/
def execFctiw (frt frb : Reg) (rc : Bool) (s : State) : Out := convertOut true false frt frb rc s

/-- `fctiwz` (R674). -/
def execFctiwz (frt frb : Reg) (rc : Bool) (s : State) : Out := convertOut true true frt frb rc s

/-! ### Convert from integer -/

/-- `FcfidModel(B)` as a value (R675, R614). -/
def fpFromInteger (f : Word) (b : DWord) : FpOut :=
  if b = 0 then exactOut .double 0 else roundResult .double f ⟨decide (b.toInt < 0), b.toInt.natAbs, 0, false⟩ false

/-- `fcfid` (R675). -/
def execFcfid (frt frb : Reg) (rc : Bool) (s : State) : Out :=
  if s.nonIeee then .refused .nonIeeeMode else fpCommit frt rc false (fpFromInteger s.fpscr (s.readFpr frb)) s

/-! ### Compare (R689) -/

/-- A number's place in the order of values: the zeros share one place (R689, R535). -/
def orderKey (x : DWord) : Int :=
  let m : Int := (x.toNat % 2 ^ 63 : Nat)
  if signOf x then -m else m

/-- `FPCompare(A, B)` (R689). -/
def fpCompare (a b : DWord) : BitVec 4 :=
  if isNaN a || isNaN b then 0b0001#4
  else if orderKey a < orderKey b then 0b1000#4
  else if orderKey b < orderKey a then 0b0100#4
  else 0b0010#4

/-- `FPCompareFinish(c, inv)` (R689): FPCC and CR field BF in every case; no CR1. -/
def compareFinish (bf : FieldNum) (c : BitVec 4) (inv : List FpExc) (s : State) : Out :=
  fpFinish false (causedBy s.fpscr inv)
    ((s.setFpscr (summarized (setExc (setFld s.fpscr 16 c) inv))).setCrField bf c)

/-- The exceptions of an unordered compare (R690). -/
def unorderedInvalid (a b : DWord) : List FpExc := if isSNaN a || isSNaN b then [.vxsnan] else []

/-- The exceptions of an ordered compare; VE as it was before (R691). -/
def orderedInvalid (f : Word) (a b : DWord) : List FpExc :=
  if isSNaN a || isSNaN b then (if bitAt f 24 then [.vxsnan] else [.vxsnan, .vxvc])
  else if isNaN a || isNaN b then [.vxvc]
  else []

/-- `fcmpu` (R690). -/
def execFcmpu (bf : FieldNum) (fra frb : Reg) (s : State) : Out :=
  let a := s.readFpr fra
  let b := s.readFpr frb
  if s.nonIeee then .refused .nonIeeeMode else compareFinish bf (fpCompare a b) (unorderedInvalid a b) s

/-- `fcmpo` (R691). -/
def execFcmpo (bf : FieldNum) (fra frb : Reg) (s : State) : Out :=
  let a := s.readFpr fra
  let b := s.readFpr frb
  if s.nonIeee then .refused .nonIeeeMode else compareFinish bf (fpCompare a b) (orderedInvalid s.fpscr a b) s

end Sys2Proof.Machine
end

