-- ==== Sys2Proof/Machine/FpEstimate.lean ====
section
/-! DEFINITION. The reciprocal estimates (R707, R708). The value of an estimate is a constant without a body (`Config`), taken as it
is where it keeps the rule's error bound; elsewhere a value that keeps it stands in (D18, log 19). -/
namespace Sys2Proof.Machine

/-! ### The error bounds -/

/-- `lo × 2^k ≤ n ≤ hi × 2^k`. -/
def withinScaled (lo n hi : Nat) (k : Int) : Bool :=
  if 0 ≤ k then decide (lo * 2 ^ k.toNat ≤ n) && decide (n ≤ hi * 2 ^ k.toNat)
  else decide (lo ≤ n * 2 ^ (-k).toNat) && decide (n * 2 ^ (-k).toNat ≤ hi)

/-- `|r - 1/x| ≤ (1/x)/256`, as `255 ≤ 256 r x ≤ 257` (R707). -/
def goodReciprocal (r x : Magnitude) : Bool := withinScaled 255 (256 * (r.man * x.man)) 257 (-(r.exp + x.exp))

/-- `|r - 1/√x| ≤ (1/√x)/32`, as `31² ≤ (32 r)² x ≤ 33²` (R708). -/
def goodRootReciprocal (r x : Magnitude) : Bool :=
  withinScaled 961 (1024 * (r.man * r.man * x.man)) 1089 (-(2 * r.exp + x.exp))

/-- A finite nonzero pattern of a sign. -/
def finiteOfSign (x : DWord) (neg : Bool) : Bool := !isNaN x && !isInf x && !isZero x && signOf x == neg

/-- A magnitude scaled by a power of 2. -/
def Magnitude.scaled (x : Magnitude) (k : Int) : Magnitude := ⟨x.man, x.exp + k⟩

/-- The reciprocal of a magnitude truncated to 24 bits: within the bound of R707. -/
def reciprocalOf (x : Magnitude) : Magnitude :=
  let q := 2 ^ 120 / x.man
  let k : Int := 23 - (q.log2 : Int)
  ⟨scaleNat q k, -120 - x.exp - k⟩

/-- The reciprocal of the square root of a magnitude truncated to 53 bits: within the bound of R708. -/
def rootReciprocalOf (x : Magnitude) : Magnitude :=
  let b := evenExp x
  let r := isqrt 130 (2 ^ 240 / b.man)
  let k : Int := 52 - (r.log2 : Int)
  ⟨scaleNat r k, (-240 - b.exp) / 2 - k⟩

/-! ### Reciprocal estimate -/

/-- Is a raw estimate, times `2^k`, a legal value: of the operand's sign, in single format, within the bound (R707)? -/
def legalEstimate (raw b : DWord) (k : Int) : Bool :=
  finiteOfSign raw (signOf b) && singleRepresentable raw && goodReciprocal ((magOf raw).scaled k) (magOf b)

/-- The raw estimate adjusted by `2^k` if it is legal, else the truncated reciprocal so adjusted (R581, R586, R707). -/
def adjustedEstimate (raw b : DWord) (k : Int) : DWord :=
  if legalEstimate raw b (-k) then raw
  else
    let r := (reciprocalOf (magOf b)).scaled k
    encode64 (signOf b) r.man r.exp

/-- May a raw estimate be delivered as it is: is it legal and, with Underflow enabled, not Tiny (R548, R585, R707)? -/
def plainLegal (f : Word) (raw b : DWord) : Bool := legalEstimate raw b 0 && !(bitAt f 26 && belowSingleNormal raw)

/-- The raw estimate if it may be delivered as it is, else the reciprocal truncated to the single format's numbers (R707); an operand
of magnitude at most 2^126 has one that is not Tiny. -/
def plainEstimate (f : Word) (raw b : DWord) : DWord :=
  if plainLegal f raw b then raw
  else
    let r := reciprocalOf (magOf b)
    if 127 < (r.man.log2 : Int) + r.exp then maxFinite .single (signOf b)
    else if (r.man.log2 : Int) + r.exp < -126 then encode64 (signOf b) (scaleNat r.man (r.exp + 149)) (-149)
    else encode64 (signOf b) r.man r.exp

/-- `FRES_EST(B, FPSCR)` for a finite nonzero operand: the estimate and the exceptions reported (R707, D18). Outside the range
2^-128 to 2^126 the reports follow the Overflow and Underflow rules (R580 to R587): with Underflow enabled a Tiny estimate is always
adjusted and reported (R585, R586); whether an estimate of normal magnitude is one beside a Tiny reciprocal is open (log 19). In the
range no exception is reported, with Underflow disabled not even for an estimate that is itself Tiny (DESIGN CHOICE, log 19). -/
def reciprocalEstimate (f : Word) (b raw : DWord) (wantOx wantUx : Bool) : DWord × List FpExc :=
  if expOf b < 895 then
    if legalEstimate raw b 0 && !wantOx then (raw, [])
    else if bitAt f 25 then (adjustedEstimate raw b (-192), [.ox])
    else (overflowDefault .single (signOf b) (rnOf f), [.ox])
  else if 1149 < expOf b ∨ (expOf b = 1149 ∧ fracOf b ≠ 0) then
    if bitAt f 26 then
      (if plainLegal f raw b && !wantUx then (raw, []) else (adjustedEstimate raw b 192, [.ux]))
    else (plainEstimate f raw b, if wantUx then [.ux] else [])
  else (plainEstimate f raw b, [])

/-- A result of an estimate instruction whose FR and FI are undefined (R557, D17). -/
def estimateOut (fmt : Fmt) (x : DWord) (occ : List FpExc) (v : DWord) : FpOut :=
  ⟨some x, some (fprfOf fmt x), bitAt v 0, bitAt v 1, occ, 1⟩

/-- `fres` on an operand that is representable in single format (R707). -/
def fpReciprocal (f : Word) (b raw : DWord) (want : Bool × Bool) (v : DWord) : FpOut :=
  if isSNaN b then invalidOut f [.vxsnan] (quiet b)
  else if isNaN b then estimateOut .single b [] v
  else if isZero b then zeroDivideOut f (signOf b)
  else if isInf b then estimateOut .single (zeroOf (signOf b)) [] v
  else
    let r := reciprocalEstimate f b raw want.1 want.2
    estimateOut .single r.1 r.2 v

/-- `fres` (R707, D13, D18): undefined unless the operand is representable (D21). -/
def execFres (frt frb : Reg) (rc : Bool) (s : State) : Out :=
  let b := s.readFpr frb
  if !s.params.hasFpGfx then illegal s
  else if s.nonIeee then .refused .nonIeeeMode
  else if singleRepresentable b then
    fpCommit frt rc true
      (fpReciprocal s.fpscr b (Config.fresEstimate b s.fpscr s.draws) (Config.fresExceptions b s.fpscr s.draws) (s.free 0)) s
  else undefinedSingle frt rc [0, 3, 4, 5, 7, 13, 14, 15, 16, 17, 18, 19] s

/-! ### Reciprocal square root estimate -/

/-- `FRSQRTE_EST(B, FPSCR)` for a positive finite operand (R708, D18). -/
def rootReciprocalEstimate (b raw : DWord) : DWord :=
  if finiteOfSign raw false && goodRootReciprocal (magOf raw) (magOf b) then raw
  else
    let r := rootReciprocalOf (magOf b)
    encode64 false r.man r.exp

/-- `frsqrte` as a value (R708). -/
def fpRootReciprocal (f : Word) (b raw v : DWord) : FpOut :=
  let inv := sqrtInvalid b
  if inv ≠ [] then invalidOut f inv (nanResult [b])
  else if isNaN b then estimateOut .double b [] v
  else if isZero b then zeroDivideOut f (signOf b)
  else if isInf b then estimateOut .double 0 [] v
  else estimateOut .double (rootReciprocalEstimate b raw) [] v

/-- `frsqrte` (R708, D13, D18). -/
def execFrsqrte (frt frb : Reg) (rc : Bool) (s : State) : Out :=
  let b := s.readFpr frb
  if !s.params.hasFpGfx then illegal s
  else if s.nonIeee then .refused .nonIeeeMode
  else fpCommit frt rc false (fpRootReciprocal s.fpscr b (Config.frsqrteEstimate b s.fpscr s.draws) (s.free 0)) s

end Sys2Proof.Machine
end

