-- ==== Sys2Proof/Machine/FpLoadStoreMove.lean ====
section
/-! DEFINITION. Floating-point loads, stores and moves (R620 to R648). -/
namespace Sys2Proof.Machine

/-! ### What they share -/

/-- A single-precision load: the word in double format into FRT, which then holds a single-precision product (R620, R640). -/
def State.withSingle (s : State) (frt : Reg) (ea : DWord) : State :=
  s.setFpr frt (doubleOf (loWord (s.loadValue ea 4))) true

/-- A double-precision load: the doubleword into FRT (R620). -/
def State.withDouble (s : State) (frt : Reg) (ea : DWord) : State := s.setFpr frt (s.loadValue ea 8) false

/-- A floating-point access without update: checked, then done. -/
def fpAccess (k : Access) (ea : DWord) (n : Nat) (done s : State) : Out := guarded (s.accessFault k ea n) s done

/-- A floating-point access with update: the form is invalid with RA = 0, else `GPR[RA] <- EA` too (R620, R630). -/
def fpAccessUpdate (k : Access) (ra : Reg) (ea : DWord) (n : Nat) (done s : State) : Out :=
  if badUpdate ra then .fault .invalidForm else guarded (s.accessFault k ea n) s (done.setGpr ra ea)

/-- `MemWrite(EA, 4, SINGLE(FPR[FRS]))`: the word is undefined for a value below 2^-149 other than 0 (R631, D17). -/
def State.storeSingle (s : State) (frs : Reg) (ea : DWord) : State :=
  let x := s.readFpr frs
  if singleUndefined x then (s.storeValue ea 4 (s.free 0)).drew 1 else s.storeValue ea 4 (zext64 (singleOf x))

/-- `MemWrite(EA, 8, FPR[FRS])` (R630). -/
def State.storeDouble (s : State) (frs : Reg) (ea : DWord) : State := s.storeValue ea 8 (s.readFpr frs)

/-- A move: no status changes but CR1 with Rc; a single-precision product stays one (R644, R640). -/
def fpMove (frt frb : Reg) (f : DWord → DWord) (rc : Bool) (s : State) : Out :=
  .next (advance ((s.setFpr frt (f (s.readFpr frb)) (s.isSingle frb)).setCr1If rc))

/-! ### Loads -/

/-- `lfs` (R622). -/
def execLfs (frt : Reg) (d : BitVec 16) (ra : Reg) (s : State) : Out :=
  fpAccess .load (s.eaD ra d) 4 (s.withSingle frt (s.eaD ra d)) s

/-- `lfsx` (R623). -/
def execLfsx (frt ra rb : Reg) (s : State) : Out :=
  fpAccess .load (s.eaX ra rb) 4 (s.withSingle frt (s.eaX ra rb)) s

/-- `lfsu` (R624). -/
def execLfsu (frt : Reg) (d : BitVec 16) (ra : Reg) (s : State) : Out :=
  fpAccessUpdate .load ra (s.eaD ra d) 4 (s.withSingle frt (s.eaD ra d)) s

/-- `lfsux` (R625). -/
def execLfsux (frt ra rb : Reg) (s : State) : Out :=
  fpAccessUpdate .load ra (s.eaX ra rb) 4 (s.withSingle frt (s.eaX ra rb)) s

/-- `lfd` (R626). -/
def execLfd (frt : Reg) (d : BitVec 16) (ra : Reg) (s : State) : Out :=
  fpAccess .load (s.eaD ra d) 8 (s.withDouble frt (s.eaD ra d)) s

/-- `lfdx` (R627). -/
def execLfdx (frt ra rb : Reg) (s : State) : Out :=
  fpAccess .load (s.eaX ra rb) 8 (s.withDouble frt (s.eaX ra rb)) s

/-- `lfdu` (R628). -/
def execLfdu (frt : Reg) (d : BitVec 16) (ra : Reg) (s : State) : Out :=
  fpAccessUpdate .load ra (s.eaD ra d) 8 (s.withDouble frt (s.eaD ra d)) s

/-- `lfdux` (R629). -/
def execLfdux (frt ra rb : Reg) (s : State) : Out :=
  fpAccessUpdate .load ra (s.eaX ra rb) 8 (s.withDouble frt (s.eaX ra rb)) s

/-! ### Stores -/

/-- `stfs` (R632). -/
def execStfs (frs : Reg) (d : BitVec 16) (ra : Reg) (s : State) : Out :=
  fpAccess .store (s.eaD ra d) 4 (s.storeSingle frs (s.eaD ra d)) s

/-- `stfsx` (R633). -/
def execStfsx (frs ra rb : Reg) (s : State) : Out :=
  fpAccess .store (s.eaX ra rb) 4 (s.storeSingle frs (s.eaX ra rb)) s

/-- `stfsu` (R634). -/
def execStfsu (frs : Reg) (d : BitVec 16) (ra : Reg) (s : State) : Out :=
  fpAccessUpdate .store ra (s.eaD ra d) 4 (s.storeSingle frs (s.eaD ra d)) s

/-- `stfsux` (R635). -/
def execStfsux (frs ra rb : Reg) (s : State) : Out :=
  fpAccessUpdate .store ra (s.eaX ra rb) 4 (s.storeSingle frs (s.eaX ra rb)) s

/-- `stfd` (R636). -/
def execStfd (frs : Reg) (d : BitVec 16) (ra : Reg) (s : State) : Out :=
  fpAccess .store (s.eaD ra d) 8 (s.storeDouble frs (s.eaD ra d)) s

/-- `stfdx` (R637). -/
def execStfdx (frs ra rb : Reg) (s : State) : Out :=
  fpAccess .store (s.eaX ra rb) 8 (s.storeDouble frs (s.eaX ra rb)) s

/-- `stfdu` (R638). -/
def execStfdu (frs : Reg) (d : BitVec 16) (ra : Reg) (s : State) : Out :=
  fpAccessUpdate .store ra (s.eaD ra d) 8 (s.storeDouble frs (s.eaD ra d)) s

/-- `stfdux` (R639). -/
def execStfdux (frs ra rb : Reg) (s : State) : Out :=
  fpAccessUpdate .store ra (s.eaX ra rb) 8 (s.storeDouble frs (s.eaX ra rb)) s

/-- `stfiwx` (R640): the word is undefined if FRS holds a single-precision product (D17). -/
def execStfiwx (frs ra rb : Reg) (s : State) : Out :=
  fpAccess .store (s.eaX ra rb) 4
    (if s.isSingle frs then (s.storeValue (s.eaX ra rb) 4 (s.free 0)).drew 1
     else s.storeValue (s.eaX ra rb) 4 (s.readFpr frs)) s

/-! ### Moves (R644) -/

/-- `fmr` (R645). -/
def execFmr (frt frb : Reg) (rc : Bool) (s : State) : Out := fpMove frt frb (fun x => x) rc s

/-- `fneg` (R646). -/
def execFneg (frt frb : Reg) (rc : Bool) (s : State) : Out := fpMove frt frb negated rc s

/-- `fabs` (R647). -/
def execFabs (frt frb : Reg) (rc : Bool) (s : State) : Out := fpMove frt frb (withSign false) rc s

/-- `fnabs` (R648). -/
def execFnabs (frt frb : Reg) (rc : Bool) (s : State) : Out := fpMove frt frb (withSign true) rc s

end Sys2Proof.Machine
end

