-- ==== Sys2Proof/Machine/FpStatus.lean ====
section
/-! DEFINITION. The Floating-Point Status and Control Register instructions (R695 to R701) and select (R709). -/
namespace Sys2Proof.Machine

/-- `WriteFPSCR(new)` and `FPFinish(Rc, moved_cause)` (R695). -/
def writeFpscrOut (new : Word) (rc : Bool) (s : State) : Out :=
  let s1 := s.writeFpscr new
  fpFinish rc (movedCause s.fpscr s1.fpscr) s1

/-- `mffs` (R696): FRT[0:31] is undefined (D17). -/
def execMffs (frt : Reg) (rc : Bool) (s : State) : Out :=
  .next (advance (((s.setFpr frt (hiWord (s.free 0) ++ s.readFpscr) false).drew 1).setCr1If rc))

/-- `v` with FX and the exception bits of its field `n` cleared (R697, R66). -/
def clearField (v : Word) (n : FieldNum) : Word :=
  (List.range 4).foldl (fun g k =>
    let b := 4 * n.toNat + k
    if b == 0 || exceptionBits.contains b then setBitAt g b false else g) v

/-- `mcrfs` (R697). -/
def execMcrfs (bf bfa : FieldNum) (s : State) : Out :=
  .next (advance ((s.setCrField bf (fld s.readFpscr (4 * bfa.toNat) 4)).setFpscr (summarized (clearField s.fpscr bfa))))

/-- `mtfsfi` (R698). -/
def execMtfsfi (bf : FieldNum) (u : BitVec 4) (rc : Bool) (s : State) : Out :=
  writeFpscrOut (setFld s.fpscr (4 * bf.toNat) u) rc s

/-- `mtfsf` (R699). -/
def execMtfsf (flm : BitVec 8) (frb : Reg) (rc : Bool) (s : State) : Out :=
  writeFpscrOut (replaceFields s.fpscr (loWord (s.readFpr frb)) flm) rc s

/-- FEX and VX cannot be set or reset explicitly (R700, R701). -/
def summaryBit (bt : BitNum) : Bool := bt == 1 || bt == 2

/-- `mtfsb0` (R700): no exception can be caused. -/
def execMtfsb0 (bt : BitNum) (rc : Bool) (s : State) : Out :=
  .next (advance ((if summaryBit bt then s else s.writeFpscr (setBitAt s.fpscr bt.toNat false)).setCr1If rc))

/-- `mtfsb1` (R701): an exception bit that changes from 0 to 1 sets FX (R67). -/
def execMtfsb1 (bt : BitNum) (rc : Bool) (s : State) : Out :=
  if summaryBit bt then .next (advance (s.setCr1If rc))
  else
    let new := setBitAt s.fpscr bt.toNat true
    let fx := exceptionBits.contains bt.toNat && !bitAt s.fpscr bt.toNat
    writeFpscrOut (if fx then setBitAt new 0 true else new) rc s

/-- `(FRA) ≥ 0.0` of R709: the zeros are, a NaN is not. -/
def geZero (a : DWord) : Bool :=
  let nan := fld a 1 11 == 0x7FF#11 && fld a 12 52 != 0
  !nan && (fld a 1 63 == 0 || !bitAt a 0)

/-- `fsel` (R709, D13): a copy, bit for bit; no status changes but CR1 with Rc. -/
def execFsel (frt fra frc frb : Reg) (rc : Bool) (s : State) : Out :=
  if !s.params.hasFpGfx then illegal s
  else
    let v := if geZero (s.readFpr fra) then s.readFpr frc else s.readFpr frb
    .next (advance ((s.setFpr frt v false).setCr1If rc))

end Sys2Proof.Machine
end

