-- ==== Sys2Proof/Machine/FxArith.lean ====
section
/-! DEFINITION. Fixed-point arithmetic: add, subtract, negate, multiply, divide (R350 to R382). -/
namespace Sys2Proof.Machine

/-! ### Add, subtract, negate -/

/-- A sum with its carry and overflow (R351). -/
structure Sum where
  res : DWord
  ca : Bool
  ov : Bool
  deriving DecidableEq, Repr

/-- The carry out of the leftmost bit of `a + b + cin` (R58). -/
def carryOut {w : Nat} (a b : BitVec w) (cin : Bool) : Bool := decide (2 ^ w ≤ a.toNat + b.toNat + cin.toNat)

/-- The overflow of a sum: operands of one sign, result of the other (R351, R61). -/
def overflowed {w : Nat} (a b res : BitVec w) : Bool := a.msb == b.msb && res.msb != a.msb

/-- `AddC(a, b, cin)` (R351). -/
def State.addC (s : State) (a b : DWord) (cin : Bool) : Sum :=
  let res := a + b + zext64 (bit cin)
  if s.params.mode64 then ⟨res, carryOut a b cin, overflowed a b res⟩
  else ⟨res, carryOut (loWord a) (loWord b) cin, overflowed (loWord a) (loWord b) (loWord res)⟩

/-- An XO-form result: RT, then OV and SO if OE, then CR0 if Rc (R352). -/
def State.xoResult (s : State) (rt : Reg) (res : DWord) (ov oe rc : Bool) : State :=
  ((s.setGpr rt res).setOvIf oe ov).setCr0If rc res

/-- An add or subtract that leaves CA alone (R357). -/
def sumOut (rt : Reg) (x : Sum) (oe rc : Bool) (s : State) : Out := .next (advance (s.xoResult rt x.res x.ov oe rc))

/-- An add or subtract that sets CA (R362). -/
def carryingOut (rt : Reg) (x : Sum) (oe rc : Bool) (s : State) : Out :=
  .next (advance ((s.setCa x.ca).xoResult rt x.res x.ov oe rc))

/-- `addi` (R355). -/
def execAddi (rt ra : Reg) (si : BitVec 16) (s : State) : Out := .next (advance (s.setGpr rt (s.ra0 ra + sext64 si)))

/-- `addis` (R356). -/
def execAddis (rt ra : Reg) (si : BitVec 16) (s : State) : Out := .next (advance (s.setGpr rt (s.ra0 ra + shiftedSI si)))

/-- `add` (R357). -/
def execAdd (rt ra rb : Reg) (oe rc : Bool) (s : State) : Out :=
  sumOut rt (s.addC (s.readGpr ra) (s.readGpr rb) false) oe rc s

/-- `subf` (R358). -/
def execSubf (rt ra rb : Reg) (oe rc : Bool) (s : State) : Out :=
  sumOut rt (s.addC (~~~s.readGpr ra) (s.readGpr rb) true) oe rc s

/-- `addic` (R359). -/
def execAddic (rt ra : Reg) (si : BitVec 16) (s : State) : Out :=
  carryingOut rt (s.addC (s.readGpr ra) (sext64 si) false) false false s

/-- `addic.` (R360). -/
def execAddicRc (rt ra : Reg) (si : BitVec 16) (s : State) : Out :=
  carryingOut rt (s.addC (s.readGpr ra) (sext64 si) false) false true s

/-- `subfic` (R361). -/
def execSubfic (rt ra : Reg) (si : BitVec 16) (s : State) : Out :=
  carryingOut rt (s.addC (~~~s.readGpr ra) (sext64 si) true) false false s

/-- `addc` (R362). -/
def execAddc (rt ra rb : Reg) (oe rc : Bool) (s : State) : Out :=
  carryingOut rt (s.addC (s.readGpr ra) (s.readGpr rb) false) oe rc s

/-- `subfc` (R363). -/
def execSubfc (rt ra rb : Reg) (oe rc : Bool) (s : State) : Out :=
  carryingOut rt (s.addC (~~~s.readGpr ra) (s.readGpr rb) true) oe rc s

/-- `adde` (R364). -/
def execAdde (rt ra rb : Reg) (oe rc : Bool) (s : State) : Out :=
  carryingOut rt (s.addC (s.readGpr ra) (s.readGpr rb) s.ca) oe rc s

/-- `subfe` (R365). -/
def execSubfe (rt ra rb : Reg) (oe rc : Bool) (s : State) : Out :=
  carryingOut rt (s.addC (~~~s.readGpr ra) (s.readGpr rb) s.ca) oe rc s

/-- `addme` (R366). -/
def execAddme (rt ra : Reg) (oe rc : Bool) (s : State) : Out :=
  carryingOut rt (s.addC (s.readGpr ra) (BitVec.allOnes 64) s.ca) oe rc s

/-- `subfme` (R367). -/
def execSubfme (rt ra : Reg) (oe rc : Bool) (s : State) : Out :=
  carryingOut rt (s.addC (~~~s.readGpr ra) (BitVec.allOnes 64) s.ca) oe rc s

/-- `addze` (R368). -/
def execAddze (rt ra : Reg) (oe rc : Bool) (s : State) : Out :=
  carryingOut rt (s.addC (s.readGpr ra) (0) s.ca) oe rc s

/-- `subfze` (R369). -/
def execSubfze (rt ra : Reg) (oe rc : Bool) (s : State) : Out :=
  carryingOut rt (s.addC (~~~s.readGpr ra) (0) s.ca) oe rc s

/-- `neg` (R370): CA is not altered. -/
def execNeg (rt ra : Reg) (oe rc : Bool) (s : State) : Out := sumOut rt (s.addC (~~~s.readGpr ra) 0 true) oe rc s

/-! ### Multiply -/

/-- Does an exact signed value fall outside `w` bits (R372, R373)? -/
def outsideSigned (w : Nat) (x : Int) : Bool := decide (x < -(2 ^ (w - 1) : Nat)) || decide ((2 ^ (w - 1) : Nat) ≤ x)

/-- A word product's or quotient's result: the high-order 32 bits of RT are undefined (R375, D17). -/
def State.withFreeHigh (s : State) (res32 : Word) : DWord := hiWord (s.free 0) ++ res32

/-- CR0 of a result whose bits 0:31 are undefined: bits 0:2 undefined in 64-bit mode (R52, R375). -/
def State.setCr0WordIf (s : State) (rc : Bool) (undef : Bool) (res v : DWord) : State :=
  if rc then (if undef || s.params.mode64 then s.setCr0Free v else s.setCr0 res) else s

/-- `mulli` (R371). -/
def execMulli (rt ra : Reg) (si : BitVec 16) (s : State) : Out :=
  .next (advance (s.setGpr rt (BitVec.ofInt 64 ((s.readGpr ra).toInt * (sext64 si).toInt))))

/-- `mulld` (R372). -/
def execMulld (rt ra rb : Reg) (oe rc : Bool) (s : State) : Out :=
  let prod := (s.readGpr ra).toInt * (s.readGpr rb).toInt
  .next (advance (s.xoResult rt (BitVec.ofInt 64 prod) (outsideSigned 64 prod) oe rc))

/-- `mullw` (R373). -/
def execMullw (rt ra rb : Reg) (oe rc : Bool) (s : State) : Out :=
  let prod := (loWord (s.readGpr ra)).toInt * (loWord (s.readGpr rb)).toInt
  .next (advance (s.xoResult rt (BitVec.ofInt 64 prod) (outsideSigned 32 prod) oe rc))

/-- `mulhd` (R374). -/
def execMulhd (rt ra rb : Reg) (rc : Bool) (s : State) : Out :=
  let prod := (s.readGpr ra).toInt * (s.readGpr rb).toInt
  .next (advance (s.xoResult rt (BitVec.ofInt 64 (prod / 2 ^ 64)) false false rc))

/-- `mulhdu` (R376). -/
def execMulhdu (rt ra rb : Reg) (rc : Bool) (s : State) : Out :=
  let prod := (s.readGpr ra).toNat * (s.readGpr rb).toNat
  .next (advance (s.xoResult rt (BitVec.ofNat 64 (prod / 2 ^ 64)) false false rc))

/-- A word result with undefined high-order half into RT, with CR0 if Rc (R375, R377). -/
def highWordOut (rt : Reg) (res32 : Word) (rc : Bool) (s : State) : Out :=
  let res := s.withFreeHigh res32
  .next (advance (((s.setGpr rt res).setCr0WordIf rc false res (s.free 1)).drew 2))

/-- `mulhw` (R375). -/
def execMulhw (rt ra rb : Reg) (rc : Bool) (s : State) : Out :=
  highWordOut rt (BitVec.ofInt 32 ((loWord (s.readGpr ra)).toInt * (loWord (s.readGpr rb)).toInt / 2 ^ 32)) rc s

/-- `mulhwu` (R377). -/
def execMulhwu (rt ra rb : Reg) (rc : Bool) (s : State) : Out :=
  highWordOut rt (BitVec.ofNat 32 ((loWord (s.readGpr ra)).toNat * (loWord (s.readGpr rb)).toNat / 2 ^ 32)) rc s

/-! ### Divide (R382) -/

/-- Is the signed division invalid: by zero, or of the most negative number by -1 (R378)? -/
def badSignedDiv {w : Nat} (a b : BitVec w) : Bool := b == 0 || (a == BitVec.intMin w && b == BitVec.allOnes w)

/-- A doubleword division: an invalid one leaves RT and CR0[0:2] undefined and sets OV (R378, R380, D17). -/
def divideDouble (rt : Reg) (bad : Bool) (quotient : DWord) (oe rc : Bool) (s : State) : Out :=
  if bad then
    .next (advance ((((s.setGpr rt (s.free 0)).setOvIf oe true).setCr0WordIf rc true 0 (s.free 1)).drew 2))
  else .next (advance (s.xoResult rt quotient false oe rc))

/-- A word division: RT[0:31] is undefined, and all of RT after an invalid one (R379, R381, D17). -/
def divideWord (rt : Reg) (bad : Bool) (quotient : Word) (oe rc : Bool) (s : State) : Out :=
  let res := if bad then s.free 0 else s.withFreeHigh quotient
  .next (advance ((((s.setGpr rt res).setOvIf oe bad).setCr0WordIf rc bad res (s.free 1)).drew 2))

/-- `divd` (R378): the quotient truncates toward zero. -/
def execDivd (rt ra rb : Reg) (oe rc : Bool) (s : State) : Out :=
  let a := s.readGpr ra
  let b := s.readGpr rb
  divideDouble rt (badSignedDiv a b) (BitVec.ofInt 64 (a.toInt.tdiv b.toInt)) oe rc s

/-- `divw` (R379). -/
def execDivw (rt ra rb : Reg) (oe rc : Bool) (s : State) : Out :=
  let a := loWord (s.readGpr ra)
  let b := loWord (s.readGpr rb)
  divideWord rt (badSignedDiv a b) (BitVec.ofInt 32 (a.toInt.tdiv b.toInt)) oe rc s

/-- `divdu` (R380). -/
def execDivdu (rt ra rb : Reg) (oe rc : Bool) (s : State) : Out :=
  let a := s.readGpr ra
  let b := s.readGpr rb
  divideDouble rt (b == 0) (BitVec.ofNat 64 (a.toNat / b.toNat)) oe rc s

/-- `divwu` (R381). -/
def execDivwu (rt ra rb : Reg) (oe rc : Bool) (s : State) : Out :=
  let a := loWord (s.readGpr ra)
  let b := loWord (s.readGpr rb)
  divideWord rt (b == 0) (BitVec.ofNat 32 (a.toNat / b.toNat)) oe rc s

end Sys2Proof.Machine
end

