-- ==== Sys2Proof/Machine/FxLoadStore.lean ====
section
/-! DEFINITION. The fixed-point loads and stores, with update and indexed forms (R260 to R311), and those with byte reversal (R313
to R317). -/
namespace Sys2Proof.Machine

/-! ### What they share -/

/-- A load: `GPR[RT] <- conv(MemRead(EA, n))` (R270). -/
def loadGpr (rt : Reg) (ea : DWord) (n : Nat) (conv : DWord → DWord) (s : State) : Out :=
  guarded (s.accessFault .load ea n) s (s.setGpr rt (conv (s.loadValue ea n)))

/-- A load with update: `GPR[RA] <- EA` too; the form may be invalid (R262). -/
def loadGprUpdate (rt ra : Reg) (ea : DWord) (n : Nat) (conv : DWord → DWord) (s : State) : Out :=
  if badLoadUpdate rt ra then .fault .invalidForm
  else guarded (s.accessFault .load ea n) s ((s.setGpr rt (conv (s.loadValue ea n))).setGpr ra ea)

/-- A store: `MemWrite(EA, n, v)`, the low-order `n` bytes of `v` (R295). -/
def storeScalar (v ea : DWord) (n : Nat) (s : State) : Out :=
  guarded (s.accessFault .store ea n) s (s.storeValue ea n v)

/-- A store with update: the old registers are stored, then `GPR[RA] <- EA`; the form may be invalid (R262). -/
def storeScalarUpdate (v : DWord) (ra : Reg) (ea : DWord) (n : Nat) (s : State) : Out :=
  if badUpdate ra then .fault .invalidForm
  else guarded (s.accessFault .store ea n) s ((s.storeValue ea n v).setGpr ra ea)

/-- The bytes of the loaded value with zeros to their left (R270). -/
def zeroExtended (v : DWord) : DWord := v

/-- The loaded halfword sign-extended (R278). -/
def halfAlgebraic (v : DWord) : DWord := sext64 (v.setWidth 16)

/-- The loaded word sign-extended (R286). -/
def wordAlgebraic (v : DWord) : DWord := sext64 (loWord v)

/-- The low-order halfword with its two bytes exchanged (R314, R316). -/
def reverseHalf (v : DWord) : DWord := zext64 (v.extractLsb' 0 8 ++ v.extractLsb' 8 8)

/-- The low-order word with its four bytes in reverse order (R315, R317). -/
def reverseWord (v : DWord) : DWord :=
  zext64 (v.extractLsb' 0 8 ++ v.extractLsb' 8 8 ++ v.extractLsb' 16 8 ++ v.extractLsb' 24 8)

/-! ### Loads -/

/-- `lbz` (R270). -/
def execLbz (rt : Reg) (d : BitVec 16) (ra : Reg) (s : State) : Out := loadGpr rt (s.eaD ra d) 1 zeroExtended s

/-- `lbzx` (R271). -/
def execLbzx (rt ra rb : Reg) (s : State) : Out := loadGpr rt (s.eaX ra rb) 1 zeroExtended s

/-- `lbzu` (R272). -/
def execLbzu (rt : Reg) (d : BitVec 16) (ra : Reg) (s : State) : Out := loadGprUpdate rt ra (s.eaD ra d) 1 zeroExtended s

/-- `lbzux` (R273). -/
def execLbzux (rt ra rb : Reg) (s : State) : Out := loadGprUpdate rt ra (s.eaX ra rb) 1 zeroExtended s

/-- `lhz` (R274). -/
def execLhz (rt : Reg) (d : BitVec 16) (ra : Reg) (s : State) : Out := loadGpr rt (s.eaD ra d) 2 zeroExtended s

/-- `lhzx` (R275). -/
def execLhzx (rt ra rb : Reg) (s : State) : Out := loadGpr rt (s.eaX ra rb) 2 zeroExtended s

/-- `lhzu` (R276). -/
def execLhzu (rt : Reg) (d : BitVec 16) (ra : Reg) (s : State) : Out := loadGprUpdate rt ra (s.eaD ra d) 2 zeroExtended s

/-- `lhzux` (R277). -/
def execLhzux (rt ra rb : Reg) (s : State) : Out := loadGprUpdate rt ra (s.eaX ra rb) 2 zeroExtended s

/-- `lha` (R278). -/
def execLha (rt : Reg) (d : BitVec 16) (ra : Reg) (s : State) : Out := loadGpr rt (s.eaD ra d) 2 halfAlgebraic s

/-- `lhax` (R279). -/
def execLhax (rt ra rb : Reg) (s : State) : Out := loadGpr rt (s.eaX ra rb) 2 halfAlgebraic s

/-- `lhau` (R280). -/
def execLhau (rt : Reg) (d : BitVec 16) (ra : Reg) (s : State) : Out := loadGprUpdate rt ra (s.eaD ra d) 2 halfAlgebraic s

/-- `lhaux` (R281). -/
def execLhaux (rt ra rb : Reg) (s : State) : Out := loadGprUpdate rt ra (s.eaX ra rb) 2 halfAlgebraic s

/-- `lwz` (R282). -/
def execLwz (rt : Reg) (d : BitVec 16) (ra : Reg) (s : State) : Out := loadGpr rt (s.eaD ra d) 4 zeroExtended s

/-- `lwzx` (R283). -/
def execLwzx (rt ra rb : Reg) (s : State) : Out := loadGpr rt (s.eaX ra rb) 4 zeroExtended s

/-- `lwzu` (R284). -/
def execLwzu (rt : Reg) (d : BitVec 16) (ra : Reg) (s : State) : Out := loadGprUpdate rt ra (s.eaD ra d) 4 zeroExtended s

/-- `lwzux` (R285). -/
def execLwzux (rt ra rb : Reg) (s : State) : Out := loadGprUpdate rt ra (s.eaX ra rb) 4 zeroExtended s

/-- `lwa` (R286). -/
def execLwa (rt : Reg) (ds : BitVec 14) (ra : Reg) (s : State) : Out := loadGpr rt (s.eaDS ra ds) 4 wordAlgebraic s

/-- `lwax` (R287). -/
def execLwax (rt ra rb : Reg) (s : State) : Out := loadGpr rt (s.eaX ra rb) 4 wordAlgebraic s

/-- `lwaux` (R288). -/
def execLwaux (rt ra rb : Reg) (s : State) : Out := loadGprUpdate rt ra (s.eaX ra rb) 4 wordAlgebraic s

/-- `ld` (R289). -/
def execLd (rt : Reg) (ds : BitVec 14) (ra : Reg) (s : State) : Out := loadGpr rt (s.eaDS ra ds) 8 zeroExtended s

/-- `ldx` (R290). -/
def execLdx (rt ra rb : Reg) (s : State) : Out := loadGpr rt (s.eaX ra rb) 8 zeroExtended s

/-- `ldu` (R291). -/
def execLdu (rt : Reg) (ds : BitVec 14) (ra : Reg) (s : State) : Out := loadGprUpdate rt ra (s.eaDS ra ds) 8 zeroExtended s

/-- `ldux` (R292). -/
def execLdux (rt ra rb : Reg) (s : State) : Out := loadGprUpdate rt ra (s.eaX ra rb) 8 zeroExtended s

/-! ### Stores -/

/-- `stb` (R296). -/
def execStb (rs : Reg) (d : BitVec 16) (ra : Reg) (s : State) : Out := storeScalar (s.readGpr rs) (s.eaD ra d) 1 s

/-- `stbx` (R297). -/
def execStbx (rs ra rb : Reg) (s : State) : Out := storeScalar (s.readGpr rs) (s.eaX ra rb) 1 s

/-- `stbu` (R298). -/
def execStbu (rs : Reg) (d : BitVec 16) (ra : Reg) (s : State) : Out := storeScalarUpdate (s.readGpr rs) ra (s.eaD ra d) 1 s

/-- `stbux` (R299). -/
def execStbux (rs ra rb : Reg) (s : State) : Out := storeScalarUpdate (s.readGpr rs) ra (s.eaX ra rb) 1 s

/-- `sth` (R300). -/
def execSth (rs : Reg) (d : BitVec 16) (ra : Reg) (s : State) : Out := storeScalar (s.readGpr rs) (s.eaD ra d) 2 s

/-- `sthx` (R301). -/
def execSthx (rs ra rb : Reg) (s : State) : Out := storeScalar (s.readGpr rs) (s.eaX ra rb) 2 s

/-- `sthu` (R302). -/
def execSthu (rs : Reg) (d : BitVec 16) (ra : Reg) (s : State) : Out := storeScalarUpdate (s.readGpr rs) ra (s.eaD ra d) 2 s

/-- `sthux` (R303). -/
def execSthux (rs ra rb : Reg) (s : State) : Out := storeScalarUpdate (s.readGpr rs) ra (s.eaX ra rb) 2 s

/-- `stw` (R304). -/
def execStw (rs : Reg) (d : BitVec 16) (ra : Reg) (s : State) : Out := storeScalar (s.readGpr rs) (s.eaD ra d) 4 s

/-- `stwx` (R305). -/
def execStwx (rs ra rb : Reg) (s : State) : Out := storeScalar (s.readGpr rs) (s.eaX ra rb) 4 s

/-- `stwu` (R306). -/
def execStwu (rs : Reg) (d : BitVec 16) (ra : Reg) (s : State) : Out := storeScalarUpdate (s.readGpr rs) ra (s.eaD ra d) 4 s

/-- `stwux` (R307). -/
def execStwux (rs ra rb : Reg) (s : State) : Out := storeScalarUpdate (s.readGpr rs) ra (s.eaX ra rb) 4 s

/-- `std` (R308). -/
def execStd (rs : Reg) (ds : BitVec 14) (ra : Reg) (s : State) : Out := storeScalar (s.readGpr rs) (s.eaDS ra ds) 8 s

/-- `stdx` (R309). -/
def execStdx (rs ra rb : Reg) (s : State) : Out := storeScalar (s.readGpr rs) (s.eaX ra rb) 8 s

/-- `stdu` (R310). -/
def execStdu (rs : Reg) (ds : BitVec 14) (ra : Reg) (s : State) : Out := storeScalarUpdate (s.readGpr rs) ra (s.eaDS ra ds) 8 s

/-- `stdux` (R311). -/
def execStdux (rs ra rb : Reg) (s : State) : Out := storeScalarUpdate (s.readGpr rs) ra (s.eaX ra rb) 8 s

/-! ### Byte reversal -/

/-- `lhbrx` (R314). -/
def execLhbrx (rt ra rb : Reg) (s : State) : Out := loadGpr rt (s.eaX ra rb) 2 reverseHalf s

/-- `lwbrx` (R315). -/
def execLwbrx (rt ra rb : Reg) (s : State) : Out := loadGpr rt (s.eaX ra rb) 4 reverseWord s

/-- `sthbrx` (R316). -/
def execSthbrx (rs ra rb : Reg) (s : State) : Out := storeScalar (reverseHalf (s.readGpr rs)) (s.eaX ra rb) 2 s

/-- `stwbrx` (R317). -/
def execStwbrx (rs ra rb : Reg) (s : State) : Out := storeScalar (reverseWord (s.readGpr rs)) (s.eaX ra rb) 4 s

end Sys2Proof.Machine
end

