-- ==== Sys2Proof/Machine/FxLogical.lean ====
section
/-! DEFINITION. Fixed-point compare, trap and logical instructions (R390 to R439). -/
namespace Sys2Proof.Machine

/-! ### Compare (R390) -/

/-- An operand of a signed comparison: all 64 bits with L = 1, else the low-order word sign-extended (R391). -/
def signedOperand (l : Bool) (v : DWord) : DWord := if l then v else sext64 (loWord v)

/-- An operand of an unsigned comparison: all 64 bits with L = 1, else the low-order word zero-extended (R393). -/
def unsignedOperand (l : Bool) (v : DWord) : DWord := if l then v else zext64 (loWord v)

/-- A comparison's result into CR field BF (R390). -/
def compareOut (bf : FieldNum) (c : BitVec 4) (s : State) : Out := .next (advance (s.setCrField bf c))

/-- `cmpi` (R391). -/
def execCmpi (bf : FieldNum) (l : Bool) (ra : Reg) (si : BitVec 16) (s : State) : Out :=
  compareOut bf (signedOrder (signedOperand l (s.readGpr ra)) (sext64 si) s.so) s

/-- `cmp` (R392). -/
def execCmp (bf : FieldNum) (l : Bool) (ra rb : Reg) (s : State) : Out :=
  compareOut bf (signedOrder (signedOperand l (s.readGpr ra)) (signedOperand l (s.readGpr rb)) s.so) s

/-- `cmpli` (R393). -/
def execCmpli (bf : FieldNum) (l : Bool) (ra : Reg) (ui : BitVec 16) (s : State) : Out :=
  compareOut bf (unsignedOrder (unsignedOperand l (s.readGpr ra)) (zext64 ui) s.so) s

/-- `cmpl` (R394). -/
def execCmpl (bf : FieldNum) (l : Bool) (ra rb : Reg) (s : State) : Out :=
  compareOut bf (unsignedOrder (unsignedOperand l (s.readGpr ra)) (unsignedOperand l (s.readGpr rb)) s.so) s

/-! ### Trap (R400) -/

/-- `TrapTest(TO, a, b)` (R400): is a condition selected by TO met? -/
def trapMet (sel : BitVec 5) (a b : DWord) : Bool :=
  (bitAt sel 0 && decide (a.toInt < b.toInt)) || (bitAt sel 1 && decide (b.toInt < a.toInt)) || (bitAt sel 2 && a == b) ||
    (bitAt sel 3 && decide (a.toNat < b.toNat)) || (bitAt sel 4 && decide (b.toNat < a.toNat))

/-- The Trap exception if a condition is met, else completion (R400, R797). -/
def trapOut (sel : BitVec 5) (a b : DWord) (s : State) : Out :=
  if trapMet sel a b then takeException (.trap s.pc) s else .next (advance s)

/-- `tdi` (R401). -/
def execTdi (sel : BitVec 5) (ra : Reg) (si : BitVec 16) (s : State) : Out := trapOut sel (s.readGpr ra) (sext64 si) s

/-- `twi` (R402). -/
def execTwi (sel : BitVec 5) (ra : Reg) (si : BitVec 16) (s : State) : Out :=
  trapOut sel (sext64 (loWord (s.readGpr ra))) (sext64 si) s

/-- `td` (R403). -/
def execTd (sel : BitVec 5) (ra rb : Reg) (s : State) : Out := trapOut sel (s.readGpr ra) (s.readGpr rb) s

/-- `tw` (R404). -/
def execTw (sel : BitVec 5) (ra rb : Reg) (s : State) : Out :=
  trapOut sel (sext64 (loWord (s.readGpr ra))) (sext64 (loWord (s.readGpr rb))) s

/-! ### Logical (R420) -/

/-- A result into RA, with CR0 if Rc (R350, R420). -/
def logicalOut (ra : Reg) (res : DWord) (rc : Bool) (s : State) : Out :=
  .next (advance ((s.setGpr ra res).setCr0If rc res))

/-- `andi.` (R421). -/
def execAndiRc (ra rs : Reg) (ui : BitVec 16) (s : State) : Out := logicalOut ra (s.readGpr rs &&& zext64 ui) true s

/-- `andis.` (R422). -/
def execAndisRc (ra rs : Reg) (ui : BitVec 16) (s : State) : Out := logicalOut ra (s.readGpr rs &&& shiftedUI ui) true s

/-- `ori` (R423). -/
def execOri (ra rs : Reg) (ui : BitVec 16) (s : State) : Out := logicalOut ra (s.readGpr rs ||| zext64 ui) false s

/-- `oris` (R424). -/
def execOris (ra rs : Reg) (ui : BitVec 16) (s : State) : Out := logicalOut ra (s.readGpr rs ||| shiftedUI ui) false s

/-- `xori` (R425). -/
def execXori (ra rs : Reg) (ui : BitVec 16) (s : State) : Out := logicalOut ra (s.readGpr rs ^^^ zext64 ui) false s

/-- `xoris` (R426). -/
def execXoris (ra rs : Reg) (ui : BitVec 16) (s : State) : Out := logicalOut ra (s.readGpr rs ^^^ shiftedUI ui) false s

/-- `and` (R427). -/
def execAnd (ra rs rb : Reg) (rc : Bool) (s : State) : Out :=
  logicalOut ra (s.readGpr rs &&& s.readGpr rb) rc s

/-- `or` (R428). -/
def execOr (ra rs rb : Reg) (rc : Bool) (s : State) : Out :=
  logicalOut ra (s.readGpr rs ||| s.readGpr rb) rc s

/-- `xor` (R429). -/
def execXor (ra rs rb : Reg) (rc : Bool) (s : State) : Out :=
  logicalOut ra (s.readGpr rs ^^^ s.readGpr rb) rc s

/-- `nand` (R430). -/
def execNand (ra rs rb : Reg) (rc : Bool) (s : State) : Out :=
  logicalOut ra (~~~(s.readGpr rs &&& s.readGpr rb)) rc s

/-- `nor` (R431). -/
def execNor (ra rs rb : Reg) (rc : Bool) (s : State) : Out :=
  logicalOut ra (~~~(s.readGpr rs ||| s.readGpr rb)) rc s

/-- `eqv` (R432). -/
def execEqv (ra rs rb : Reg) (rc : Bool) (s : State) : Out :=
  logicalOut ra (~~~(s.readGpr rs ^^^ s.readGpr rb)) rc s

/-- `andc` (R433). -/
def execAndc (ra rs rb : Reg) (rc : Bool) (s : State) : Out :=
  logicalOut ra (s.readGpr rs &&& ~~~s.readGpr rb) rc s

/-- `orc` (R434). -/
def execOrc (ra rs rb : Reg) (rc : Bool) (s : State) : Out :=
  logicalOut ra (s.readGpr rs ||| ~~~s.readGpr rb) rc s

/-! ### Extend sign, count leading zeros -/

/-- The number of consecutive 0-bits from bit 0 on (R438, R439). -/
def leadingZeros {w : Nat} (v : BitVec w) : DWord :=
  BitVec.ofNat 64 ((List.range w).takeWhile (fun p => !bitAt v p)).length

/-- `extsb` (R435). -/
def execExtsb (ra rs : Reg) (rc : Bool) (s : State) : Out := logicalOut ra (sext64 ((s.readGpr rs).setWidth 8)) rc s

/-- `extsh` (R436). -/
def execExtsh (ra rs : Reg) (rc : Bool) (s : State) : Out := logicalOut ra (sext64 ((s.readGpr rs).setWidth 16)) rc s

/-- `extsw` (R437). -/
def execExtsw (ra rs : Reg) (rc : Bool) (s : State) : Out := logicalOut ra (sext64 (loWord (s.readGpr rs))) rc s

/-- `cntlzd` (R438). -/
def execCntlzd (ra rs : Reg) (rc : Bool) (s : State) : Out := logicalOut ra (leadingZeros (s.readGpr rs)) rc s

/-- `cntlzw` (R439). -/
def execCntlzw (ra rs : Reg) (rc : Bool) (s : State) : Out := logicalOut ra (leadingZeros (loWord (s.readGpr rs))) rc s

end Sys2Proof.Machine
end

