-- ==== Sys2Proof/Machine/FxMove.lean ====
section
/-! DEFINITION. Moves to and from the special purpose registers, CR and XER (R500 to R507). -/
namespace Sys2Proof.Machine

/-- An SPR number that Book I does not define: by the bit of weight 16, spr0, a privileged or an illegal instruction (R500, D11). -/
def otherSpr (spr : BitVec 10) (s : State) : Out := if spr.getLsbD 4 then privileged s else illegal s

/-- `mtspr` (R501). -/
def execMtspr (spr : BitVec 10) (rs : Reg) (s : State) : Out :=
  if spr = 1 then .next (advance (s.writeXer (s.readGpr rs)))
  else if spr = 8 then .next (advance (s.setLr (s.readGpr rs)))
  else if spr = 9 then .next (advance (s.setCtr (s.readGpr rs)))
  else otherSpr spr s

/-- `mfspr` (R502). -/
def execMfspr (rt : Reg) (spr : BitVec 10) (s : State) : Out :=
  if spr = 1 then .next (advance (s.setGpr rt s.readXer))
  else if spr = 8 then .next (advance (s.setGpr rt s.lr))
  else if spr = 9 then .next (advance (s.setGpr rt s.ctr))
  else otherSpr spr s

/-- Does FXM have exactly one 1-bit (R505)? -/
def oneField (fxm : BitVec 8) : Bool := ((List.range 8).filter (bitAt fxm)).length == 1

/-- `mtcrf` (R503). -/
def execMtcrf (fxm : BitVec 8) (rs : Reg) (s : State) : Out :=
  .next (advance (s.setCr (replaceFields s.cr (loWord (s.readGpr rs)) fxm)))

/-- `mfcr` (R504). -/
def execMfcr (rt : Reg) (s : State) : Out := .next (advance (s.setGpr rt (zext64 s.cr)))

/-- `mtocrf` (R505, D13): unless one field is selected all of CR is undefined (D17). -/
def execMtocrf (fxm : BitVec 8) (rs : Reg) (s : State) : Out :=
  if !s.params.hasOcrf then illegal s
  else if oneField fxm then .next (advance (s.setCr (replaceFields s.cr (loWord (s.readGpr rs)) fxm)))
  else .next (advance ((s.setCr (loWord (s.free 0))).drew 1))

/-- `mfocrf` (R506, D13): all but the one field selected is undefined (D17). -/
def execMfocrf (rt : Reg) (fxm : BitVec 8) (s : State) : Out :=
  if !s.params.hasOcrf then illegal s
  else
    let v := s.free 0
    let v1 := if oneField fxm then hiWord v ++ replaceFields (loWord v) s.cr fxm else v
    .next (advance ((s.setGpr rt v1).drew 1))

/-- `mcrxr` (R507, D13). -/
def execMcrxr (bf : FieldNum) (s : State) : Out :=
  if !s.params.hasMcrxr then illegal s
  else .next (advance ((s.setCrField bf (fld s.readXer 32 4)).setXer (setFld s.xer 32 (0 : BitVec 4))))

end Sys2Proof.Machine
end

