-- ==== Sys2Proof/Machine/FxMultiple.lean ====
section
/-! DEFINITION. Load and store multiple (R319 to R321) and move assist (R325 to R333). All accesses of one instruction are checked
before any register or byte changes (R121, D1). -/
namespace Sys2Proof.Machine

/-! ### What they share -/

/-- The effective addresses of `n` operands of `w` bytes that follow one another from `ea` (R320, R330). -/
def consecutive (ea : DWord) (w n : Nat) : List DWord := (List.range n).map (fun k => ea + BitVec.ofNat 64 (w * k))

/-- The first exception among the accesses of an instruction to `w`-byte operands, in the order they are made (R121). -/
def State.firstFault (s : State) (k : Access) (w : Nat) (eas : List DWord) : Option Exception :=
  eas.findSome? (fun ea => s.accessFault k ea w)

/-- Consecutive registers from `r` on, wrapping from 31 to 0 (R325). -/
def State.setGprs (s : State) (r : Reg) : List DWord → State
  | [] => s
  | v :: vs => State.setGprs (s.setGpr r v) (r + 1) vs

/-- Values stored into `w`-byte operands, in order (R321, R332). -/
def State.storeValues (s : State) (w : Nat) : List DWord → List DWord → State
  | ea :: eas, v :: vs => State.storeValues (s.storeValue ea w v) w eas vs
  | _, _ => s

/-- Four bytes as the low-order word of a register, the first one leftmost (R330). -/
def wordOf (a b c d : DWord) : DWord := (a <<< 24) ||| (b <<< 16) ||| (c <<< 8) ||| d

/-- Bytes four to a register, left to right, zeros where the last register is not filled (R330). -/
def packWords : List DWord → List DWord
  | [] => []
  | [a] => [wordOf a 0 0 0]
  | [a, b] => [wordOf a b 0 0]
  | [a, b, c] => [wordOf a b c 0]
  | a :: b :: c :: d :: rest => wordOf a b c d :: packWords rest

/-- The `j`-th byte that a store string takes from the registers from `rs` on (R332). -/
def State.stringByte (s : State) (rs : Reg) (j : Nat) : DWord :=
  zext64 (byteOf (s.readGpr (regAfter rs (j / 4))) 4 (j % 4))

/-- Little-Endian mode: multiple and string instructions always raise Alignment (R117). -/
def unlessLittleEndian (ea : DWord) (s : State) (otherwise : Out) : Out :=
  if s.littleEndian then takeException (.alignment ea s.pc) s else otherwise

/-- `n` bytes from `ea` into the registers from `rt` on (R330). -/
def loadString (rt : Reg) (ea : DWord) (n : Nat) (s : State) : Out :=
  let eas := consecutive ea 1 n
  guarded (s.firstFault .load 1 eas) s (s.setGprs rt (packWords (eas.map (fun x => s.loadValue x 1))))

/-- `n` bytes from the registers from `rs` on to `ea` (R332). -/
def storeString (rs : Reg) (ea : DWord) (n : Nat) (s : State) : Out :=
  let eas := consecutive ea 1 n
  guarded (s.firstFault .store 1 eas) s (s.storeValues 1 eas ((List.range n).map (s.stringByte rs)))

/-! ### The instructions -/

/-- `lmw` (R320). -/
def execLmw (rt : Reg) (d : BitVec 16) (ra : Reg) (s : State) : Out :=
  let eas := consecutive (s.eaD ra d) 4 (32 - rt.toNat)
  unlessLittleEndian (s.eaD ra d) s
    (if badMultiple rt ra then .fault .invalidForm
     else guarded (s.firstFault .load 4 eas) s (s.setGprs rt (eas.map (fun x => s.loadValue x 4))))

/-- `stmw` (R321). -/
def execStmw (rs : Reg) (d : BitVec 16) (ra : Reg) (s : State) : Out :=
  let n := 32 - rs.toNat
  let eas := consecutive (s.eaD ra d) 4 n
  unlessLittleEndian (s.eaD ra d) s
    (guarded (s.firstFault .store 4 eas) s
      (s.storeValues 4 eas ((List.range n).map (fun k => s.readGpr (regAfter rs k)))))

/-- `lswi` (R330). -/
def execLswi (rt ra : Reg) (nb : BitVec 5) (s : State) : Out :=
  unlessLittleEndian (s.ra0 ra) s
    (if badStringImm rt ra nb then .fault .invalidForm else loadString rt (s.ra0 ra) (nbCount nb) s)

/-- `lswx` (R331): with a byte count of 0 RT is undefined (D17); a source register in the range loaded is boundedly undefined
(D16). -/
def execLswx (rt ra rb : Reg) (s : State) : Out :=
  unlessLittleEndian (s.eaX ra rb) s
    (if badStringIdx rt ra rb then .fault .invalidForm
     else if s.byteCount = 0 then .next (advance ((s.setGpr rt (s.free 0)).drew 1))
     else if inRange rt (regsFor s.byteCount) ra || inRange rt (regsFor s.byteCount) rb then .fault .boundedlyUndefined
     else loadString rt (s.eaX ra rb) s.byteCount s)

/-- `stswi` (R332). -/
def execStswi (rs ra : Reg) (nb : BitVec 5) (s : State) : Out :=
  unlessLittleEndian (s.ra0 ra) s (storeString rs (s.ra0 ra) (nbCount nb) s)

/-- `stswx` (R333): with a byte count of 0 no byte is stored. -/
def execStswx (rs ra rb : Reg) (s : State) : Out :=
  unlessLittleEndian (s.eaX ra rb) s (storeString rs (s.eaX ra rb) s.byteCount s)

end Sys2Proof.Machine
end

