-- ==== Sys2Proof/Machine/FxRotateShift.lean ====
section
/-! DEFINITION. Fixed-point rotate and shift instructions (R445 to R468). -/
namespace Sys2Proof.Machine

/-! ### What they share -/

/-- A result into RA, with CR0 if Rc. -/
def rotateOut (ra : Reg) (res : DWord) (rc : Bool) (s : State) : Out :=
  .next (advance ((s.setGpr ra res).setCr0If rc res))

/-- The rotated data inserted into `old` under control of a mask (R445). -/
def insertMasked (r old m : DWord) : DWord := (r &&& m) ||| (old &&& ~~~m)

/-- The mask of a word rotate, `MASK(MB + 32, ME + 32)` (R449). -/
def maskWord (mb me : BitVec 5) : DWord := mask64 (mb.toNat + 32) (me.toNat + 32)

/-- The low-order six bits of a shift count (R460). -/
def count6 (v : DWord) : Nat := (fld v 58 6).toNat

/-- The low-order five bits of a shift count (R460). -/
def count5 (v : DWord) : Nat := (fld v 59 5).toNat

/-- The mask of a shift: zero when the count's next bit is 1 (R461). -/
def shiftMask (zero : Bool) (m : DWord) : DWord := if zero then 0 else m

/-- Sixty-four copies of a bit, `rep(64, s)`. -/
def signFill (b : Bool) : DWord := if b then BitVec.allOnes 64 else 0

/-- A shift right algebraic: the result under the mask, sign bits elsewhere, CA from the bits shifted out (R465 to R468). -/
def shiftAlgebraicOut (ra : Reg) (r m : DWord) (sign lost : Bool) (rc : Bool) (s : State) : Out :=
  let res := (r &&& m) ||| (signFill sign &&& ~~~m)
  .next (advance (((s.setGpr ra res).setCa (sign && lost)).setCr0If rc res))

/-! ### Rotate -/

/-- `rldicl` (R446). -/
def execRldicl (ra rs : Reg) (sh mb : BitVec 6) (rc : Bool) (s : State) : Out :=
  rotateOut ra (rotl64 (s.readGpr rs) sh.toNat &&& mask64 mb.toNat 63) rc s

/-- `rldicr` (R447). -/
def execRldicr (ra rs : Reg) (sh me : BitVec 6) (rc : Bool) (s : State) : Out :=
  rotateOut ra (rotl64 (s.readGpr rs) sh.toNat &&& mask64 0 me.toNat) rc s

/-- `rldic` (R448). -/
def execRldic (ra rs : Reg) (sh mb : BitVec 6) (rc : Bool) (s : State) : Out :=
  rotateOut ra (rotl64 (s.readGpr rs) sh.toNat &&& mask64 mb.toNat (63 - sh.toNat)) rc s

/-- `rlwinm` (R449). -/
def execRlwinm (ra rs : Reg) (sh mb me : BitVec 5) (rc : Bool) (s : State) : Out :=
  rotateOut ra (rotl32 (loWord (s.readGpr rs)) sh.toNat &&& maskWord mb me) rc s

/-- `rldcl` (R450). -/
def execRldcl (ra rs rb : Reg) (mb : BitVec 6) (rc : Bool) (s : State) : Out :=
  rotateOut ra (rotl64 (s.readGpr rs) (count6 (s.readGpr rb)) &&& mask64 mb.toNat 63) rc s

/-- `rldcr` (R451). -/
def execRldcr (ra rs rb : Reg) (me : BitVec 6) (rc : Bool) (s : State) : Out :=
  rotateOut ra (rotl64 (s.readGpr rs) (count6 (s.readGpr rb)) &&& mask64 0 me.toNat) rc s

/-- `rlwnm` (R452). -/
def execRlwnm (ra rs rb : Reg) (mb me : BitVec 5) (rc : Bool) (s : State) : Out :=
  rotateOut ra (rotl32 (loWord (s.readGpr rs)) (count5 (s.readGpr rb)) &&& maskWord mb me) rc s

/-- `rldimi` (R453). -/
def execRldimi (ra rs : Reg) (sh mb : BitVec 6) (rc : Bool) (s : State) : Out :=
  rotateOut ra (insertMasked (rotl64 (s.readGpr rs) sh.toNat) (s.readGpr ra) (mask64 mb.toNat (63 - sh.toNat))) rc s

/-- `rlwimi` (R454). -/
def execRlwimi (ra rs : Reg) (sh mb me : BitVec 5) (rc : Bool) (s : State) : Out :=
  rotateOut ra (insertMasked (rotl32 (loWord (s.readGpr rs)) sh.toNat) (s.readGpr ra) (maskWord mb me)) rc s

/-! ### Shift (R460) -/

/-- `sld` (R461). -/
def execSld (ra rs rb : Reg) (rc : Bool) (s : State) : Out :=
  let b := s.readGpr rb
  let n := count6 b
  rotateOut ra (rotl64 (s.readGpr rs) n &&& shiftMask (bitAt b 57) (mask64 0 (63 - n))) rc s

/-- `slw` (R462). -/
def execSlw (ra rs rb : Reg) (rc : Bool) (s : State) : Out :=
  let b := s.readGpr rb
  let n := count5 b
  rotateOut ra (rotl32 (loWord (s.readGpr rs)) n &&& shiftMask (bitAt b 58) (mask64 32 (63 - n))) rc s

/-- `srd` (R463). -/
def execSrd (ra rs rb : Reg) (rc : Bool) (s : State) : Out :=
  let b := s.readGpr rb
  let n := count6 b
  rotateOut ra (rotl64 (s.readGpr rs) (64 - n) &&& shiftMask (bitAt b 57) (mask64 n 63)) rc s

/-- `srw` (R464). -/
def execSrw (ra rs rb : Reg) (rc : Bool) (s : State) : Out :=
  let b := s.readGpr rb
  let n := count5 b
  rotateOut ra (rotl32 (loWord (s.readGpr rs)) (64 - n) &&& shiftMask (bitAt b 58) (mask64 (n + 32) 63)) rc s

/-- `sradi` (R465). -/
def execSradi (ra rs : Reg) (sh : BitVec 6) (rc : Bool) (s : State) : Out :=
  let r := rotl64 (s.readGpr rs) (64 - sh.toNat)
  let m := mask64 sh.toNat 63
  shiftAlgebraicOut ra r m (bitAt (s.readGpr rs) 0) (r &&& ~~~m != 0) rc s

/-- `srawi` (R466). -/
def execSrawi (ra rs : Reg) (sh : BitVec 5) (rc : Bool) (s : State) : Out :=
  let r := rotl32 (loWord (s.readGpr rs)) (64 - sh.toNat)
  let m := mask64 (sh.toNat + 32) 63
  shiftAlgebraicOut ra r m (bitAt (s.readGpr rs) 32) (loWord (r &&& ~~~m) != 0) rc s

/-- `srad` (R467). -/
def execSrad (ra rs rb : Reg) (rc : Bool) (s : State) : Out :=
  let b := s.readGpr rb
  let n := count6 b
  let r := rotl64 (s.readGpr rs) (64 - n)
  let m := shiftMask (bitAt b 57) (mask64 n 63)
  shiftAlgebraicOut ra r m (bitAt (s.readGpr rs) 0) (r &&& ~~~m != 0) rc s

/-- `sraw` (R468). -/
def execSraw (ra rs rb : Reg) (rc : Bool) (s : State) : Out :=
  let b := s.readGpr rb
  let n := count5 b
  let r := rotl32 (loWord (s.readGpr rs)) (64 - n)
  let m := shiftMask (bitAt b 58) (mask64 (n + 32) 63)
  shiftAlgebraicOut ra r m (bitAt (s.readGpr rs) 32) (loWord (r &&& ~~~m) != 0) rc s

end Sys2Proof.Machine
end

