-- ==== Sys2Proof/Machine/OtherBooks.lean ====
section
/-! DEFINITION. Words that hold no instruction, and the instructions of Books II and III, which the decoder recognises and whose
semantics are in no source (R204, D20). Those that D20 lets a model of one processor treat as no-ops, `sync`, `isync`, `eieio` and the
cache touches, only advance (log 10); those the source names as privileged take that exception (R794, log 11); the rest are refused
by name (log 12). -/
namespace Sys2Proof.Machine

/-- A fetched word that holds no instruction: an invalid form of a defined one stops as every invalid form does (R208, D7; log 6,
log 33), any other word is illegal or reserved and takes the Illegal Instruction exception (R202, R203, R790; log 24). -/
def execRejected (e : DecodeError) (s : State) : Out :=
  match e with
  | .invalidForm => .fault .invalidForm
  | .truncated => illegal s
  | .illegalClass => illegal s
  | .reservedClass => illegal s

/-- `rfid` (R204, D20): no source gives its effect. -/
def execRfid (_s : State) : Out := .refused (.otherBook "rfid")

/-- `isync` (D20, R836, log 10): a no-op in a model of one processor. -/
def execIsync (s : State) : Out := .next (advance s)

/-- `lwarx` (R204, D20): no source gives its effect. -/
def execLwarx (_s : State) : Out := .refused (.otherBook "lwarx")

/-- `dcbst` (R131, R204, R836, D20): a model refuses it; D20's no-op is for other instructions. -/
def execDcbst (_s : State) : Out := .refused (.otherBook "dcbst")

/-- `mfmsr` (R794, log 11): privileged. -/
def execMfmsr (s : State) : Out := privileged s

/-- `ldarx` (R204, D20): no source gives its effect. -/
def execLdarx (_s : State) : Out := .refused (.otherBook "ldarx")

/-- `dcbf` (R131, R204, R836, D20): a model refuses it; D20's no-op is for other instructions. -/
def execDcbf (_s : State) : Out := .refused (.otherBook "dcbf")

/-- `mtmsr` (R204, D20): no source gives its effect. -/
def execMtmsr (_s : State) : Out := .refused (.otherBook "mtmsr")

/-- `stwcx.` (R204, D20): no source gives its effect. -/
def execStwcxRc (_s : State) : Out := .refused (.otherBook "stwcx.")

/-- `mtmsrd` (R204, D20): no source gives its effect. -/
def execMtmsrd (_s : State) : Out := .refused (.otherBook "mtmsrd")

/-- `mtsr` (R204, D20): no source gives its effect. -/
def execMtsr (_s : State) : Out := .refused (.otherBook "mtsr")

/-- `stdcx.` (R204, D20): no source gives its effect. -/
def execStdcxRc (_s : State) : Out := .refused (.otherBook "stdcx.")

/-- `mtsrin` (R204, D20): no source gives its effect. -/
def execMtsrin (_s : State) : Out := .refused (.otherBook "mtsrin")

/-- `dcbtst` (D20, R836, log 10): a no-op in a model of one processor. -/
def execDcbtst (s : State) : Out := .next (advance s)

/-- `dcbt` (D20, R836, log 10): a no-op in a model of one processor. -/
def execDcbt (s : State) : Out := .next (advance s)

/-- `tlbie` (R204, D20): no source gives its effect. -/
def execTlbie (_s : State) : Out := .refused (.otherBook "tlbie")

/-- `eciwx` (R204, D20): no source gives its effect. -/
def execEciwx (_s : State) : Out := .refused (.otherBook "eciwx")

/-- `tlbia` (R204, D20): no source gives its effect. -/
def execTlbia (_s : State) : Out := .refused (.otherBook "tlbia")

/-- `mftb` (R204, D20): no source gives its effect. -/
def execMftb (_s : State) : Out := .refused (.otherBook "mftb")

/-- `slbmte` (R204, D20): no source gives its effect. -/
def execSlbmte (_s : State) : Out := .refused (.otherBook "slbmte")

/-- `slbie` (R204, D20): no source gives its effect. -/
def execSlbie (_s : State) : Out := .refused (.otherBook "slbie")

/-- `ecowx` (R204, D20): no source gives its effect. -/
def execEcowx (_s : State) : Out := .refused (.otherBook "ecowx")

/-- `slbia` (R204, D20): no source gives its effect. -/
def execSlbia (_s : State) : Out := .refused (.otherBook "slbia")

/-- `tlbsync` (R204, D20): no source gives its effect. -/
def execTlbsync (_s : State) : Out := .refused (.otherBook "tlbsync")

/-- `mfsr` (R794, log 11): privileged. -/
def execMfsr (s : State) : Out := privileged s

/-- `sync` (D20, R836, log 10): a no-op in a model of one processor. -/
def execSync (s : State) : Out := .next (advance s)

/-- `mfsrin` (R794, log 11): privileged. -/
def execMfsrin (s : State) : Out := privileged s

/-- `slbmfev` (R204, D20): no source gives its effect. -/
def execSlbmfev (_s : State) : Out := .refused (.otherBook "slbmfev")

/-- `eieio` (D20, R836, log 10): a no-op in a model of one processor. -/
def execEieio (s : State) : Out := .next (advance s)

/-- `slbmfee` (R204, D20): no source gives its effect. -/
def execSlbmfee (_s : State) : Out := .refused (.otherBook "slbmfee")

/-- `icbi` (R131, R204, R836, D20): a model refuses it; D20's no-op is for other instructions. -/
def execIcbi (_s : State) : Out := .refused (.otherBook "icbi")

/-- `dcbz` (R204, D20): no source gives its effect. -/
def execDcbz (_s : State) : Out := .refused (.otherBook "dcbz")

end Sys2Proof.Machine
end

