-- ==== Sys2Proof/Machine/Dispatch.lean ====
section
/-! DEFINITION. The dispatch: one arm for each instruction, each a direct call of its meaning. -/
namespace Sys2Proof.Machine

def exec (i : Instr) (s : State) : Host.Outcome State Fault Refusal :=
  match i with
  | .b li aa lk => Sys2Proof.Machine.execB li aa lk s
  | .bc bo bi bd aa lk => Sys2Proof.Machine.execBc bo bi bd aa lk s
  | .bclr bo bi bh lk => Sys2Proof.Machine.execBclr bo bi bh lk s
  | .bcctr bo bi bh lk => Sys2Proof.Machine.execBcctr bo bi bh lk s
  | .sc lev one => Sys2Proof.Machine.execSc lev one s
  | .crand bt ba bb => Sys2Proof.Machine.execCrand bt ba bb s
  | .cror bt ba bb => Sys2Proof.Machine.execCror bt ba bb s
  | .crxor bt ba bb => Sys2Proof.Machine.execCrxor bt ba bb s
  | .crnand bt ba bb => Sys2Proof.Machine.execCrnand bt ba bb s
  | .crnor bt ba bb => Sys2Proof.Machine.execCrnor bt ba bb s
  | .creqv bt ba bb => Sys2Proof.Machine.execCreqv bt ba bb s
  | .crandc bt ba bb => Sys2Proof.Machine.execCrandc bt ba bb s
  | .crorc bt ba bb => Sys2Proof.Machine.execCrorc bt ba bb s
  | .mcrf bf bfa => Sys2Proof.Machine.execMcrf bf bfa s
  | .lbz rt d ra => Sys2Proof.Machine.execLbz rt d ra s
  | .lbzx rt ra rb => Sys2Proof.Machine.execLbzx rt ra rb s
  | .lbzu rt d ra => Sys2Proof.Machine.execLbzu rt d ra s
  | .lbzux rt ra rb => Sys2Proof.Machine.execLbzux rt ra rb s
  | .lhz rt d ra => Sys2Proof.Machine.execLhz rt d ra s
  | .lhzx rt ra rb => Sys2Proof.Machine.execLhzx rt ra rb s
  | .lhzu rt d ra => Sys2Proof.Machine.execLhzu rt d ra s
  | .lhzux rt ra rb => Sys2Proof.Machine.execLhzux rt ra rb s
  | .lha rt d ra => Sys2Proof.Machine.execLha rt d ra s
  | .lhax rt ra rb => Sys2Proof.Machine.execLhax rt ra rb s
  | .lhau rt d ra => Sys2Proof.Machine.execLhau rt d ra s
  | .lhaux rt ra rb => Sys2Proof.Machine.execLhaux rt ra rb s
  | .lwz rt d ra => Sys2Proof.Machine.execLwz rt d ra s
  | .lwzx rt ra rb => Sys2Proof.Machine.execLwzx rt ra rb s
  | .lwzu rt d ra => Sys2Proof.Machine.execLwzu rt d ra s
  | .lwzux rt ra rb => Sys2Proof.Machine.execLwzux rt ra rb s
  | .lwa rt ds ra => Sys2Proof.Machine.execLwa rt ds ra s
  | .lwax rt ra rb => Sys2Proof.Machine.execLwax rt ra rb s
  | .lwaux rt ra rb => Sys2Proof.Machine.execLwaux rt ra rb s
  | .ld rt ds ra => Sys2Proof.Machine.execLd rt ds ra s
  | .ldx rt ra rb => Sys2Proof.Machine.execLdx rt ra rb s
  | .ldu rt ds ra => Sys2Proof.Machine.execLdu rt ds ra s
  | .ldux rt ra rb => Sys2Proof.Machine.execLdux rt ra rb s
  | .stb rs d ra => Sys2Proof.Machine.execStb rs d ra s
  | .stbx rs ra rb => Sys2Proof.Machine.execStbx rs ra rb s
  | .stbu rs d ra => Sys2Proof.Machine.execStbu rs d ra s
  | .stbux rs ra rb => Sys2Proof.Machine.execStbux rs ra rb s
  | .sth rs d ra => Sys2Proof.Machine.execSth rs d ra s
  | .sthx rs ra rb => Sys2Proof.Machine.execSthx rs ra rb s
  | .sthu rs d ra => Sys2Proof.Machine.execSthu rs d ra s
  | .sthux rs ra rb => Sys2Proof.Machine.execSthux rs ra rb s
  | .stw rs d ra => Sys2Proof.Machine.execStw rs d ra s
  | .stwx rs ra rb => Sys2Proof.Machine.execStwx rs ra rb s
  | .stwu rs d ra => Sys2Proof.Machine.execStwu rs d ra s
  | .stwux rs ra rb => Sys2Proof.Machine.execStwux rs ra rb s
  | .std rs ds ra => Sys2Proof.Machine.execStd rs ds ra s
  | .stdx rs ra rb => Sys2Proof.Machine.execStdx rs ra rb s
  | .stdu rs ds ra => Sys2Proof.Machine.execStdu rs ds ra s
  | .stdux rs ra rb => Sys2Proof.Machine.execStdux rs ra rb s
  | .lhbrx rt ra rb => Sys2Proof.Machine.execLhbrx rt ra rb s
  | .lwbrx rt ra rb => Sys2Proof.Machine.execLwbrx rt ra rb s
  | .sthbrx rs ra rb => Sys2Proof.Machine.execSthbrx rs ra rb s
  | .stwbrx rs ra rb => Sys2Proof.Machine.execStwbrx rs ra rb s
  | .lmw rt d ra => Sys2Proof.Machine.execLmw rt d ra s
  | .stmw rs d ra => Sys2Proof.Machine.execStmw rs d ra s
  | .lswi rt ra nb => Sys2Proof.Machine.execLswi rt ra nb s
  | .lswx rt ra rb => Sys2Proof.Machine.execLswx rt ra rb s
  | .stswi rs ra nb => Sys2Proof.Machine.execStswi rs ra nb s
  | .stswx rs ra rb => Sys2Proof.Machine.execStswx rs ra rb s
  | .addi rt ra si => Sys2Proof.Machine.execAddi rt ra si s
  | .addis rt ra si => Sys2Proof.Machine.execAddis rt ra si s
  | .add rt ra rb oe rc => Sys2Proof.Machine.execAdd rt ra rb oe rc s
  | .subf rt ra rb oe rc => Sys2Proof.Machine.execSubf rt ra rb oe rc s
  | .addic rt ra si => Sys2Proof.Machine.execAddic rt ra si s
  | .addicRc rt ra si => Sys2Proof.Machine.execAddicRc rt ra si s
  | .subfic rt ra si => Sys2Proof.Machine.execSubfic rt ra si s
  | .addc rt ra rb oe rc => Sys2Proof.Machine.execAddc rt ra rb oe rc s
  | .subfc rt ra rb oe rc => Sys2Proof.Machine.execSubfc rt ra rb oe rc s
  | .adde rt ra rb oe rc => Sys2Proof.Machine.execAdde rt ra rb oe rc s
  | .subfe rt ra rb oe rc => Sys2Proof.Machine.execSubfe rt ra rb oe rc s
  | .addme rt ra oe rc => Sys2Proof.Machine.execAddme rt ra oe rc s
  | .subfme rt ra oe rc => Sys2Proof.Machine.execSubfme rt ra oe rc s
  | .addze rt ra oe rc => Sys2Proof.Machine.execAddze rt ra oe rc s
  | .subfze rt ra oe rc => Sys2Proof.Machine.execSubfze rt ra oe rc s
  | .neg rt ra oe rc => Sys2Proof.Machine.execNeg rt ra oe rc s
  | .mulli rt ra si => Sys2Proof.Machine.execMulli rt ra si s
  | .mulld rt ra rb oe rc => Sys2Proof.Machine.execMulld rt ra rb oe rc s
  | .mullw rt ra rb oe rc => Sys2Proof.Machine.execMullw rt ra rb oe rc s
  | .mulhd rt ra rb rc => Sys2Proof.Machine.execMulhd rt ra rb rc s
  | .mulhw rt ra rb rc => Sys2Proof.Machine.execMulhw rt ra rb rc s
  | .mulhdu rt ra rb rc => Sys2Proof.Machine.execMulhdu rt ra rb rc s
  | .mulhwu rt ra rb rc => Sys2Proof.Machine.execMulhwu rt ra rb rc s
  | .divd rt ra rb oe rc => Sys2Proof.Machine.execDivd rt ra rb oe rc s
  | .divw rt ra rb oe rc => Sys2Proof.Machine.execDivw rt ra rb oe rc s
  | .divdu rt ra rb oe rc => Sys2Proof.Machine.execDivdu rt ra rb oe rc s
  | .divwu rt ra rb oe rc => Sys2Proof.Machine.execDivwu rt ra rb oe rc s
  | .cmpi bf l ra si => Sys2Proof.Machine.execCmpi bf l ra si s
  | .cmp bf l ra rb => Sys2Proof.Machine.execCmp bf l ra rb s
  | .cmpli bf l ra ui => Sys2Proof.Machine.execCmpli bf l ra ui s
  | .cmpl bf l ra rb => Sys2Proof.Machine.execCmpl bf l ra rb s
  | .tdi sel ra si => Sys2Proof.Machine.execTdi sel ra si s
  | .twi sel ra si => Sys2Proof.Machine.execTwi sel ra si s
  | .td sel ra rb => Sys2Proof.Machine.execTd sel ra rb s
  | .tw sel ra rb => Sys2Proof.Machine.execTw sel ra rb s
  | .andiRc ra rs ui => Sys2Proof.Machine.execAndiRc ra rs ui s
  | .andisRc ra rs ui => Sys2Proof.Machine.execAndisRc ra rs ui s
  | .ori ra rs ui => Sys2Proof.Machine.execOri ra rs ui s
  | .oris ra rs ui => Sys2Proof.Machine.execOris ra rs ui s
  | .xori ra rs ui => Sys2Proof.Machine.execXori ra rs ui s
  | .xoris ra rs ui => Sys2Proof.Machine.execXoris ra rs ui s
  | .and ra rs rb rc => Sys2Proof.Machine.execAnd ra rs rb rc s
  | .or ra rs rb rc => Sys2Proof.Machine.execOr ra rs rb rc s
  | .xor ra rs rb rc => Sys2Proof.Machine.execXor ra rs rb rc s
  | .nand ra rs rb rc => Sys2Proof.Machine.execNand ra rs rb rc s
  | .nor ra rs rb rc => Sys2Proof.Machine.execNor ra rs rb rc s
  | .eqv ra rs rb rc => Sys2Proof.Machine.execEqv ra rs rb rc s
  | .andc ra rs rb rc => Sys2Proof.Machine.execAndc ra rs rb rc s
  | .orc ra rs rb rc => Sys2Proof.Machine.execOrc ra rs rb rc s
  | .extsb ra rs rc => Sys2Proof.Machine.execExtsb ra rs rc s
  | .extsh ra rs rc => Sys2Proof.Machine.execExtsh ra rs rc s
  | .extsw ra rs rc => Sys2Proof.Machine.execExtsw ra rs rc s
  | .cntlzd ra rs rc => Sys2Proof.Machine.execCntlzd ra rs rc s
  | .cntlzw ra rs rc => Sys2Proof.Machine.execCntlzw ra rs rc s
  | .rldicl ra rs sh mb rc => Sys2Proof.Machine.execRldicl ra rs sh mb rc s
  | .rldicr ra rs sh me rc => Sys2Proof.Machine.execRldicr ra rs sh me rc s
  | .rldic ra rs sh mb rc => Sys2Proof.Machine.execRldic ra rs sh mb rc s
  | .rlwinm ra rs sh mb me rc => Sys2Proof.Machine.execRlwinm ra rs sh mb me rc s
  | .rldcl ra rs rb mb rc => Sys2Proof.Machine.execRldcl ra rs rb mb rc s
  | .rldcr ra rs rb me rc => Sys2Proof.Machine.execRldcr ra rs rb me rc s
  | .rlwnm ra rs rb mb me rc => Sys2Proof.Machine.execRlwnm ra rs rb mb me rc s
  | .rldimi ra rs sh mb rc => Sys2Proof.Machine.execRldimi ra rs sh mb rc s
  | .rlwimi ra rs sh mb me rc => Sys2Proof.Machine.execRlwimi ra rs sh mb me rc s
  | .sld ra rs rb rc => Sys2Proof.Machine.execSld ra rs rb rc s
  | .slw ra rs rb rc => Sys2Proof.Machine.execSlw ra rs rb rc s
  | .srd ra rs rb rc => Sys2Proof.Machine.execSrd ra rs rb rc s
  | .srw ra rs rb rc => Sys2Proof.Machine.execSrw ra rs rb rc s
  | .sradi ra rs sh rc => Sys2Proof.Machine.execSradi ra rs sh rc s
  | .srawi ra rs sh rc => Sys2Proof.Machine.execSrawi ra rs sh rc s
  | .srad ra rs rb rc => Sys2Proof.Machine.execSrad ra rs rb rc s
  | .sraw ra rs rb rc => Sys2Proof.Machine.execSraw ra rs rb rc s
  | .mtspr spr rs => Sys2Proof.Machine.execMtspr spr rs s
  | .mfspr rt spr => Sys2Proof.Machine.execMfspr rt spr s
  | .mtcrf fxm rs => Sys2Proof.Machine.execMtcrf fxm rs s
  | .mfcr rt => Sys2Proof.Machine.execMfcr rt s
  | .mtocrf fxm rs => Sys2Proof.Machine.execMtocrf fxm rs s
  | .mfocrf rt fxm => Sys2Proof.Machine.execMfocrf rt fxm s
  | .mcrxr bf => Sys2Proof.Machine.execMcrxr bf s
  | .lfs frt d ra => Sys2Proof.Machine.execLfs frt d ra s
  | .lfsx frt ra rb => Sys2Proof.Machine.execLfsx frt ra rb s
  | .lfsu frt d ra => Sys2Proof.Machine.execLfsu frt d ra s
  | .lfsux frt ra rb => Sys2Proof.Machine.execLfsux frt ra rb s
  | .lfd frt d ra => Sys2Proof.Machine.execLfd frt d ra s
  | .lfdx frt ra rb => Sys2Proof.Machine.execLfdx frt ra rb s
  | .lfdu frt d ra => Sys2Proof.Machine.execLfdu frt d ra s
  | .lfdux frt ra rb => Sys2Proof.Machine.execLfdux frt ra rb s
  | .stfs frs d ra => Sys2Proof.Machine.execStfs frs d ra s
  | .stfsx frs ra rb => Sys2Proof.Machine.execStfsx frs ra rb s
  | .stfsu frs d ra => Sys2Proof.Machine.execStfsu frs d ra s
  | .stfsux frs ra rb => Sys2Proof.Machine.execStfsux frs ra rb s
  | .stfd frs d ra => Sys2Proof.Machine.execStfd frs d ra s
  | .stfdx frs ra rb => Sys2Proof.Machine.execStfdx frs ra rb s
  | .stfdu frs d ra => Sys2Proof.Machine.execStfdu frs d ra s
  | .stfdux frs ra rb => Sys2Proof.Machine.execStfdux frs ra rb s
  | .stfiwx frs ra rb => Sys2Proof.Machine.execStfiwx frs ra rb s
  | .fmr frt frb rc => Sys2Proof.Machine.execFmr frt frb rc s
  | .fneg frt frb rc => Sys2Proof.Machine.execFneg frt frb rc s
  | .fabs frt frb rc => Sys2Proof.Machine.execFabs frt frb rc s
  | .fnabs frt frb rc => Sys2Proof.Machine.execFnabs frt frb rc s
  | .fadd frt fra frb rc => Sys2Proof.Machine.execFadd frt fra frb rc s
  | .fadds frt fra frb rc => Sys2Proof.Machine.execFadds frt fra frb rc s
  | .fsub frt fra frb rc => Sys2Proof.Machine.execFsub frt fra frb rc s
  | .fsubs frt fra frb rc => Sys2Proof.Machine.execFsubs frt fra frb rc s
  | .fmul frt fra frc rc => Sys2Proof.Machine.execFmul frt fra frc rc s
  | .fmuls frt fra frc rc => Sys2Proof.Machine.execFmuls frt fra frc rc s
  | .fdiv frt fra frb rc => Sys2Proof.Machine.execFdiv frt fra frb rc s
  | .fdivs frt fra frb rc => Sys2Proof.Machine.execFdivs frt fra frb rc s
  | .fmadd frt fra frc frb rc => Sys2Proof.Machine.execFmadd frt fra frc frb rc s
  | .fmadds frt fra frc frb rc => Sys2Proof.Machine.execFmadds frt fra frc frb rc s
  | .fmsub frt fra frc frb rc => Sys2Proof.Machine.execFmsub frt fra frc frb rc s
  | .fmsubs frt fra frc frb rc => Sys2Proof.Machine.execFmsubs frt fra frc frb rc s
  | .fnmadd frt fra frc frb rc => Sys2Proof.Machine.execFnmadd frt fra frc frb rc s
  | .fnmadds frt fra frc frb rc => Sys2Proof.Machine.execFnmadds frt fra frc frb rc s
  | .fnmsub frt fra frc frb rc => Sys2Proof.Machine.execFnmsub frt fra frc frb rc s
  | .fnmsubs frt fra frc frb rc => Sys2Proof.Machine.execFnmsubs frt fra frc frb rc s
  | .frsp frt frb rc => Sys2Proof.Machine.execFrsp frt frb rc s
  | .fctid frt frb rc => Sys2Proof.Machine.execFctid frt frb rc s
  | .fctidz frt frb rc => Sys2Proof.Machine.execFctidz frt frb rc s
  | .fctiw frt frb rc => Sys2Proof.Machine.execFctiw frt frb rc s
  | .fctiwz frt frb rc => Sys2Proof.Machine.execFctiwz frt frb rc s
  | .fcfid frt frb rc => Sys2Proof.Machine.execFcfid frt frb rc s
  | .fcmpu bf fra frb => Sys2Proof.Machine.execFcmpu bf fra frb s
  | .fcmpo bf fra frb => Sys2Proof.Machine.execFcmpo bf fra frb s
  | .mffs frt rc => Sys2Proof.Machine.execMffs frt rc s
  | .mcrfs bf bfa => Sys2Proof.Machine.execMcrfs bf bfa s
  | .mtfsfi bf u rc => Sys2Proof.Machine.execMtfsfi bf u rc s
  | .mtfsf flm frb rc => Sys2Proof.Machine.execMtfsf flm frb rc s
  | .mtfsb0 bt rc => Sys2Proof.Machine.execMtfsb0 bt rc s
  | .mtfsb1 bt rc => Sys2Proof.Machine.execMtfsb1 bt rc s
  | .fsqrt frt frb rc => Sys2Proof.Machine.execFsqrt frt frb rc s
  | .fsqrts frt frb rc => Sys2Proof.Machine.execFsqrts frt frb rc s
  | .fres frt frb rc => Sys2Proof.Machine.execFres frt frb rc s
  | .frsqrte frt frb rc => Sys2Proof.Machine.execFrsqrte frt frb rc s
  | .fsel frt fra frc frb rc => Sys2Proof.Machine.execFsel frt fra frc frb rc s
  | .rfid => Sys2Proof.Machine.execRfid s
  | .isync => Sys2Proof.Machine.execIsync s
  | .lwarx => Sys2Proof.Machine.execLwarx s
  | .dcbst => Sys2Proof.Machine.execDcbst s
  | .mfmsr => Sys2Proof.Machine.execMfmsr s
  | .ldarx => Sys2Proof.Machine.execLdarx s
  | .dcbf => Sys2Proof.Machine.execDcbf s
  | .mtmsr => Sys2Proof.Machine.execMtmsr s
  | .stwcxRc => Sys2Proof.Machine.execStwcxRc s
  | .mtmsrd => Sys2Proof.Machine.execMtmsrd s
  | .mtsr => Sys2Proof.Machine.execMtsr s
  | .stdcxRc => Sys2Proof.Machine.execStdcxRc s
  | .mtsrin => Sys2Proof.Machine.execMtsrin s
  | .dcbtst => Sys2Proof.Machine.execDcbtst s
  | .dcbt => Sys2Proof.Machine.execDcbt s
  | .tlbie => Sys2Proof.Machine.execTlbie s
  | .eciwx => Sys2Proof.Machine.execEciwx s
  | .tlbia => Sys2Proof.Machine.execTlbia s
  | .mftb => Sys2Proof.Machine.execMftb s
  | .slbmte => Sys2Proof.Machine.execSlbmte s
  | .slbie => Sys2Proof.Machine.execSlbie s
  | .ecowx => Sys2Proof.Machine.execEcowx s
  | .slbia => Sys2Proof.Machine.execSlbia s
  | .tlbsync => Sys2Proof.Machine.execTlbsync s
  | .mfsr => Sys2Proof.Machine.execMfsr s
  | .sync => Sys2Proof.Machine.execSync s
  | .mfsrin => Sys2Proof.Machine.execMfsrin s
  | .slbmfev => Sys2Proof.Machine.execSlbmfev s
  | .eieio => Sys2Proof.Machine.execEieio s
  | .slbmfee => Sys2Proof.Machine.execSlbmfee s
  | .icbi => Sys2Proof.Machine.execIcbi s
  | .dcbz => Sys2Proof.Machine.execDcbz s

end Sys2Proof.Machine
end

