-- ==== Sys2Proof/Machine/Step.lean ====
section
/-! DEFINITION. One step: fetch, decode, execute (R785), and the placing of an instruction where the next step fetches. -/
namespace Sys2Proof.Machine

/-- One step (R781, R785): while a handler has control the run of the program has ended (R783); a fetch may raise InstructionStorage
(R791) or meet storage the program has modified (R130); a word of the illegal or reserved class raises IllegalInstruction (R790),
and one in an invalid form that no row covers stops (R208). -/
def step (s : State) : Host.Outcome State Fault Refusal :=
  if s.outcome.isSome then .fault .handlerInControl
  else
    match s.fetch with
    | .unavailable => takeException (.instructionStorage s.pc) s
    | .modified => .fault .fetchModified
    | .bytes bs =>
      match decode bs with
      | .ok (i, _) => exec i s
      | .error e => execRejected e s

/-- `s` with the instruction word `w` placed where the next step fetches, as a program is loaded from outside (D9, log 9): its bytes
count as the program's, may be fetched, and no handler has control. -/
def State.withFetchWord (s : State) (nbits w : Nat) : State :=
  { s with
    mem := Memory.writeAll s.mem s.fetchAddrs (bytesOfWord (BitVec.ofNat 32 (w % 2 ^ nbits)))
    modified := s.modified.filter (fun a => !s.fetchAddrs.contains a)
    params := { s.params with denied := s.params.denied.filter (fun d => !(s.checkedAddrs (wordAligned s.pc) 4).any (d.blocks .fetch)) }
    outcome := none }

end Sys2Proof.Machine
end

