-- ==== Sys2Proof/Safety.lean ====
section
/-! DEFINITION. What claims speak of: the invariant of the machine's states, and what an instruction leaves alone. -/
namespace Sys2Proof.Machine

/-- Strictly rising addresses below 2^64. -/
def addressesWf : List Nat → Bool
  | [] => true
  | a :: rest =>
    decide (a < 2 ^ 64) && (match rest with
      | [] => true
      | c :: _ => decide (a < c)) && addressesWf rest

/-- With `RESERVED_READS` = zero no reserved bit of XER or FPSCR is held (R64, D8). -/
def State.reservedClear (s : State) : Bool :=
  s.params.reservedReads != .zero || (s.xer &&& ~~~xerDefined == 0 && s.fpscr &&& s.fpscrReserved == 0)

/-- The invariant: storage in its canonical form, the modified addresses in theirs, the instruction address word-aligned and, in
32-bit mode, below 2^32 (R46), FEX and VX the ORs of their bits (R68, R69), no reserved bit held that is not stored (R64). -/
def State.inv (s : State) : Bool :=
  Memory.wf s.mem && addressesWf s.modified && (wordAligned s.pc == s.pc) && (s.iea s.pc == s.pc) &&
    (summarized s.fpscr == s.fpscr) && s.reservedClear

/-! ### What an instruction leaves alone -/

/-- Every general register but those listed is as before. -/
def sameGprsBut (rs : List Reg) (s t : State) : Prop := ∀ r : Reg, r ∉ rs → t.readGpr r = s.readGpr r

/-- Every floating-point register but those listed is as before, and so is what is known of its history (R640; log 21). -/
def sameFprsBut (rs : List Reg) (s t : State) : Prop :=
  ∀ r : Reg, r ∉ rs → t.readFpr r = s.readFpr r ∧ t.isSingle r = s.isSingle r

/-- Every field of CR but those listed is as before. -/
def sameCrBut (fs : List FieldNum) (s t : State) : Prop := ∀ f : FieldNum, f ∉ fs → t.crField f = s.crField f

/-- Every bit of XER but those listed is as before. -/
def sameXerBut (ps : List Nat) (s t : State) : Prop := ∀ p : Nat, p < 64 → p ∉ ps → bitAt t.xer p = bitAt s.xer p

/-- Every bit of FPSCR but those listed is as before. -/
def sameFpscrBut (ps : List Nat) (s t : State) : Prop := ∀ p : Nat, p < 32 → p ∉ ps → bitAt t.fpscr p = bitAt s.fpscr p

/-- Every byte of storage but those at the listed addresses is as before. -/
def sameBytesBut (as : List Nat) (s t : State) : Prop := ∀ a : Nat, a ∉ as → t.readByte a = s.readByte a

/-- The addresses stored into since the program was loaded are those of before and none but listed ones (R130; log 8). -/
def modifiedWithin (as : List Nat) (s t : State) : Prop :=
  (∀ a ∈ s.modified, a ∈ t.modified) ∧ ∀ a ∈ t.modified, a ∈ s.modified ∨ a ∈ as

/-- What no instruction of Book I writes: the byte order, its setting for handlers, and the parameters (R12, R113). -/
def sameMode (s t : State) : Prop := t.le = s.le ∧ t.ile = s.ile ∧ t.params = s.params

/-- What an instruction may change: general and floating-point registers, CR fields, XER and FPSCR bits, bytes of storage, LR and
CTR. -/
structure Changes where
  gprs : List Reg := []
  fprs : List Reg := []
  cr : List FieldNum := []
  xer : List Nat := []
  fpscr : List Nat := []
  bytes : List Nat := []
  lr : Bool := false
  ctr : Bool := false

/-- Nothing but what is listed has changed; no exception has been taken. The instruction address is not spoken of. Of the model's
own fields, the modified addresses grow by listed ones alone, and no free value is drawn twice. -/
structure Leaves (c : Changes) (s t : State) : Prop where
  gprs : sameGprsBut c.gprs s t
  fprs : sameFprsBut c.fprs s t
  cr : sameCrBut c.cr s t
  xer : sameXerBut c.xer s t
  fpscr : sameFpscrBut c.fpscr s t
  bytes : sameBytesBut c.bytes s t
  modified : modifiedWithin c.bytes s t
  draws : s.draws ≤ t.draws
  lr : c.lr = false → t.lr = s.lr
  ctr : c.ctr = false → t.ctr = s.ctr
  mode : sameMode s t
  outcome : t.outcome = s.outcome

/-- The instruction answers a next state, and it is one of which `P` holds. -/
def completes (o : Out) (P : State → Prop) : Prop := ∃ t : State, o = .next t ∧ P t

/-- The instruction completes at the next sequential instruction with nothing but what is listed changed, and `P` holds. The
listed bytes are those it stores: each counts as modified from then on (R130; log 8). -/
def completesWith (o : Out) (s : State) (c : Changes) (P : State → Prop) : Prop :=
  completes o (fun t => t.pc = s.nextPc ∧ Leaves c s t ∧ (∀ a ∈ c.bytes, a ∈ t.modified) ∧ P t)

/-- The instruction takes an exception and changes nothing else. -/
def raises (o : Out) (e : Exception) (s : State) : Prop := o = .next { s with outcome := some e }

/-! ### Terms of the statements -/

/-- The width of the mode in effect: M of R17 is 64 minus it. -/
def State.width (s : State) : Nat := if s.params.mode64 then 64 else 32

/-- `x[M:63]` as an unsigned number (R17, R45). -/
def State.unsignedLow (s : State) (x : DWord) : Nat := x.toNat % 2 ^ s.width

/-- `x[M:63]` as a signed number (R17, R45). -/
def State.signedLow (s : State) (x : DWord) : Int := x.toInt.bmod (2 ^ s.width)

/-- CR field 0 as the sign of a result in the mode in effect and the summary overflow bit (R52). -/
def recordsResult (res : DWord) (s t : State) : Prop :=
  t.crField 0 = nibble (decide (s.signedLow res < 0)) (decide (0 < s.signedLow res)) (decide (s.signedLow res = 0)) t.so

/-- The fields of CR an instruction with the Rc bit writes. -/
def recordField (rc : Bool) : List FieldNum := if rc then [0] else []

/-- With the Rc bit CR field 0 is recorded (R52). -/
def recordsIf (rc : Bool) (res : DWord) (s t : State) : Prop := rc = true → recordsResult res s t

/-- The operand of `n` bytes at `ea` may be accessed: aligned where that is demanded, every byte `sa(ea + i)` available, in both
byte orders (R106, R110, R120). -/
def accessible (k : Access) (ea : DWord) (n : Nat) (s : State) : Prop :=
  (s.params.unaligned = .fault → ea.toNat % n = 0) ∧ ∀ i : Nat, i < n → s.available k (s.sa (ea + BitVec.ofNat 64 i)).toNat = true

/-- The `n` bytes of storage at `ea`, most significant first, are the low-order bytes of `v`. -/
def holdsBytes (v ea : DWord) (n : Nat) (s : State) : Prop :=
  ∀ i : Nat, i < n → s.readByte (s.byteAddr ea n i) = byteOf v n i

/-- The sum `a + b + cin` into `rt` with its carry, overflow and record (R351, R352, R52): carry and overflow are those of the
exact sums of the operands' low-order bits in the mode in effect. -/
def sumResult (rt : Reg) (a b : DWord) (cin carries oe rc : Bool) (s t : State) : Prop :=
  t.readGpr rt = a + b + BitVec.ofNat 64 cin.toNat ∧
    (carries = true → t.ca = decide (2 ^ s.width ≤ s.unsignedLow a + s.unsignedLow b + cin.toNat)) ∧
    (oe = true →
      (t.ov = true ↔
        s.signedLow a + s.signedLow b + cin.toNat < -(2 ^ (s.width - 1) : Int) ∨
          (2 ^ (s.width - 1) : Int) ≤ s.signedLow a + s.signedLow b + cin.toNat) ∧
        t.so = (s.so || t.ov)) ∧
    recordsIf rc (t.readGpr rt) s t

/-- The XER bits an instruction writes that may set CA and, with the OE bit, OV and SO. -/
def sumBits (carries oe : Bool) : List Nat := (if carries then [34] else []) ++ (if oe then [32, 33] else [])

/-! ### Storage accesses -/

/-- A load of the `n` bytes at `ea` into `rt`, zeros to their left (R270). -/
def loadsZero (out : Out) (rt : Reg) (ea : DWord) (n : Nat) (s : State) : Prop :=
  accessible .load ea n s → completesWith out s { gprs := [rt] } (fun t =>
    holdsBytes (t.readGpr rt) ea n s ∧ (t.readGpr rt).toNat < 2 ^ (8 * n))

/-- A load of the `n` bytes at `ea` into `rt`, copies of their sign to their left (R278, R286). -/
def loadsSigned (out : Out) (rt : Reg) (ea : DWord) (n : Nat) (s : State) : Prop :=
  accessible .load ea n s → completesWith out s { gprs := [rt] } (fun t =>
    holdsBytes (t.readGpr rt) ea n s ∧ -(2 ^ (8 * n - 1) : Int) ≤ (t.readGpr rt).toInt ∧
      (t.readGpr rt).toInt < (2 ^ (8 * n - 1) : Int))

/-- A load of the `n` bytes at `ea` into `rt` in reverse order (R314, R315). -/
def loadsReversed (out : Out) (rt : Reg) (ea : DWord) (n : Nat) (s : State) : Prop :=
  accessible .load ea n s → completesWith out s { gprs := [rt] } (fun t =>
    (∀ i : Nat, i < n → s.readByte (s.byteAddr ea n i) = byteOf (t.readGpr rt) n (n - 1 - i)) ∧
      (t.readGpr rt).toNat < 2 ^ (8 * n))

/-- A load with update, in a valid form: the effective address into `ra` as well (R262). -/
def loadsUpdating (out : Out) (rt ra : Reg) (ea : DWord) (n : Nat) (signed : Bool) (s : State) : Prop :=
  ra ≠ 0 → ra ≠ rt → accessible .load ea n s → completesWith out s { gprs := [rt, ra] } (fun t =>
    holdsBytes (t.readGpr rt) ea n s ∧ t.readGpr ra = ea ∧
      (if signed then -(2 ^ (8 * n - 1) : Int) ≤ (t.readGpr rt).toInt ∧ (t.readGpr rt).toInt < (2 ^ (8 * n - 1) : Int)
       else (t.readGpr rt).toNat < 2 ^ (8 * n)))

/-- A store of the low-order `n` bytes of `v` at `ea` (R295). -/
def storesAt (out : Out) (v ea : DWord) (n : Nat) (s : State) : Prop :=
  Memory.wf s.mem = true → accessible .store ea n s →
    completesWith out s { bytes := s.operandAddrs ea n } (fun t => holdsBytes v ea n t)

/-- A store of the low-order `n` bytes of `v` at `ea` in reverse order (R316, R317). -/
def storesReversed (out : Out) (v ea : DWord) (n : Nat) (s : State) : Prop :=
  Memory.wf s.mem = true → accessible .store ea n s →
    completesWith out s { bytes := s.operandAddrs ea n } (fun t =>
      ∀ i : Nat, i < n → t.readByte (t.byteAddr ea n i) = byteOf v n (n - 1 - i))

/-- A store with update, in a valid form: the effective address into `ra` as well (R262). -/
def storesUpdating (out : Out) (v : DWord) (ra : Reg) (ea : DWord) (n : Nat) (s : State) : Prop :=
  ra ≠ 0 → Memory.wf s.mem = true → accessible .store ea n s →
    completesWith out s { gprs := [ra], bytes := s.operandAddrs ea n } (fun t => holdsBytes v ea n t ∧ t.readGpr ra = ea)

/-- What an access that may not be made raises: Alignment where alignment is demanded and lacking, else DataStorage where a byte
`sa(ea + i)` is not available; nothing else changes (R106, R110, R121, R785, R792, R793). -/
def accessTraps (out : Out) (k : Access) (ea : DWord) (n : Nat) (s : State) : Prop :=
  (s.params.unaligned = .fault → ea.toNat % n ≠ 0 → raises out (.alignment ea s.pc) s) ∧
    ((s.params.unaligned = .fault → ea.toNat % n = 0) → 
        (∃ i : Nat, i < n ∧ s.available k (s.sa (ea + BitVec.ofNat 64 i)).toNat = false) →
      raises out (.dataStorage ea (k == .store) s.pc) s)

/-- What an instruction raises that accesses `n` operands of `w` bytes one after another: the exception of the first that may not
be accessed; nothing has changed (R121, R785; log 15, log 30). -/
def firstTraps (out : Out) (k : Access) (ea : DWord) (w n : Nat) (s : State) : Prop :=
  ∀ j : Nat, j < n → (∀ i : Nat, i < j → accessible k (ea + BitVec.ofNat 64 (w * i)) w s) →
    accessTraps out k (ea + BitVec.ofNat 64 (w * j)) w s

/-- Words at consecutive effective addresses. -/
def wordsAccessible (k : Access) (ea : DWord) (n : Nat) (s : State) : Prop :=
  ∀ j : Nat, j < n → accessible k (ea + BitVec.ofNat 64 (4 * j)) 4 s

/-- Bytes at consecutive effective addresses. -/
def bytesAccessible (k : Access) (ea : DWord) (n : Nat) (s : State) : Prop :=
  ∀ j : Nat, j < n → accessible k (ea + BitVec.ofNat 64 j) 1 s

/-- The storage address of the byte at an effective address. -/
def State.oneAddr (s : State) (ea : DWord) : Nat := s.byteAddr ea 1 0

/-- `n` consecutive registers from `r` on, wrapping from 31 to 0 (R325). -/
def regsFrom (r : Reg) (n : Nat) : List Reg := (List.range n).map (regAfter r)

/-- A string load of `n` bytes (R330): four to a register, left to right, zeros where the last one is not filled. -/
def loadsString (out : Out) (rt : Reg) (ea : DWord) (n : Nat) (s : State) : Prop :=
  bytesAccessible .load ea n s → completesWith out s { gprs := regsFrom rt (regsFor n) } (fun t =>
    ∀ k : Nat, k < regsFor n → (t.readGpr (regAfter rt k)).toNat < 2 ^ 32 ∧ ∀ i : Nat, i < 4 →
      byteOf (t.readGpr (regAfter rt k)) 4 i =
        if 4 * k + i < n then s.readByte (s.oneAddr (ea + BitVec.ofNat 64 (4 * k + i))) else 0)

/-- A string store of `n` bytes (R332): four from each register, left to right, of its low-order word. -/
def storesString (out : Out) (rs : Reg) (ea : DWord) (n : Nat) (s : State) : Prop :=
  Memory.wf s.mem = true → bytesAccessible .store ea n s →
    completesWith out s { bytes := (List.range n).map (fun j => s.oneAddr (ea + BitVec.ofNat 64 j)) } (fun t =>
      ∀ j : Nat, j < n →
        t.readByte (s.oneAddr (ea + BitVec.ofNat 64 j)) = byteOf (s.readGpr (regAfter rs (j / 4))) 4 (j % 4))

/-! ### Fixed-point terms -/

/-- Is bit `p` in `MASK(mb, me)` (R22)? -/
def maskBit (mb me p : Nat) : Bool := if mb ≤ me then decide (mb ≤ p ∧ p ≤ me) else decide (p ≤ me ∨ mb ≤ p)

/-- A rotate of a doubleword left by `n` under a mask into `ra`; `keep` says whether the bits outside the mask are those of the
old `ra` or zeros (R21, R22, R445). -/
def rotatesDouble (out : Out) (ra rs : Reg) (n mb me : Nat) (keep rc : Bool) (s : State) : Prop :=
  completesWith out s { gprs := [ra], cr := recordField rc } (fun t =>
    (∀ p : Nat, p < 64 → bitAt (t.readGpr ra) p =
      if maskBit mb me p then bitAt (s.readGpr rs) ((p + n) % 64) else (keep && bitAt (s.readGpr ra) p)) ∧
    recordsIf rc (t.readGpr ra) s t)

/-- A rotate of the low-order word, which stands in both halves, under a mask of the low-order half's bits (R21, R449). -/
def rotatesWord (out : Out) (ra rs : Reg) (n mb me : Nat) (keep rc : Bool) (s : State) : Prop :=
  completesWith out s { gprs := [ra], cr := recordField rc } (fun t =>
    (∀ p : Nat, p < 64 → bitAt (t.readGpr ra) p =
      if maskBit (mb + 32) (me + 32) p then bitAt (s.readGpr rs) (32 + (p + n) % 32) else (keep && bitAt (s.readGpr ra) p)) ∧
    recordsIf rc (t.readGpr ra) s t)

/-- A logical operation on each bit of `a` and `b` into `ra` (R420). -/
def combinesBits (out : Out) (f : Bool → Bool → Bool) (ra : Reg) (a b : DWord) (rc : Bool) (s : State) : Prop :=
  completesWith out s { gprs := [ra], cr := recordField rc } (fun t =>
    (∀ p : Nat, p < 64 → bitAt (t.readGpr ra) p = f (bitAt a p) (bitAt b p)) ∧ recordsIf rc (t.readGpr ra) s t)

/-- A result into `ra` of which `P` holds, recorded with the Rc bit. -/
def resultInto (out : Out) (ra : Reg) (rc : Bool) (P : DWord → Prop) (s : State) : Prop :=
  completesWith out s { gprs := [ra], cr := recordField rc } (fun t => P (t.readGpr ra) ∧ recordsIf rc (t.readGpr ra) s t)

/-- An algebraic shift right: a result of which `P` holds, and the carry (R465 to R468). -/
def shiftsAlgebraic (out : Out) (ra : Reg) (rc carry : Bool) (P : DWord → Prop) (s : State) : Prop :=
  completesWith out s { gprs := [ra], cr := recordField rc, xer := [34] } (fun t =>
    P (t.readGpr ra) ∧ t.ca = carry ∧ recordsIf rc (t.readGpr ra) s t)

/-- With the OE bit OV is the overflow and SO keeps it (R60, R61). -/
def recordsOverflow (oe ov : Bool) (s t : State) : Prop := oe = true → t.ov = ov ∧ t.so = (s.so || ov)

/-- The XER bits written with the OE bit. -/
def overflowBits (oe : Bool) : List Nat := if oe then [32, 33] else []

/-- With the Rc bit CR field 0 holds SO in its last bit, whatever its other bits (R52). -/
def recordsSummary (rc : Bool) (t : State) : Prop := rc = true → bitAt (t.crField 0) 3 = t.so

/-- A comparison into `bf` (R390): less, greater, equal, and SO. -/
def comparesInto (out : Out) (bf : FieldNum) (a b : Int) (s : State) : Prop :=
  completesWith out s { cr := [bf] } (fun t => t.crField bf = nibble (decide (a < b)) (decide (b < a)) (decide (a = b)) s.so)

/-- A trap instruction (R400): the trap handler when a selected condition holds of the operands as signed or as unsigned numbers,
else nothing. -/
def trapsOn (out : Out) (sel : BitVec 5) (a b : Int) (ua ub : Nat) (s : State) : Prop :=
  ((bitAt sel 0 = true ∧ a < b) ∨ (bitAt sel 1 = true ∧ b < a) ∨ (bitAt sel 2 = true ∧ a = b) ∨
      (bitAt sel 3 = true ∧ ua < ub) ∨ (bitAt sel 4 = true ∧ ub < ua) → raises out (.trap s.pc) s) ∧
    (¬ ((bitAt sel 0 = true ∧ a < b) ∨ (bitAt sel 1 = true ∧ b < a) ∨ (bitAt sel 2 = true ∧ a = b) ∨
      (bitAt sel 3 = true ∧ ua < ub) ∨ (bitAt sel 4 = true ∧ ub < ua)) → completesWith out s {} (fun _ => True))

/-! ### Floating-point terms -/

/-- `Val(x)` of R532 times 2^1074, an integer for every finite pattern; an infinity counts as 2^1024. -/
def scaledValue (x : DWord) : Int :=
  let m : Int := ((magOf x).man * 2 ^ ((magOf x).exp + 1074).toNat : Nat)
  if signOf x then -m else m

/-- A finite double that the format represents (R532, R556). -/
def inFormat (fmt : Fmt) (z : DWord) : Prop := expOf z < 2047 ∧ (fmt = .single → ∃ w : Word, doubleOf w = z)

/-- A normal double whose significand has no more bits than the format's, whatever its exponent: what an adjusted result of the
format is (R581, R586). -/
def inPrecision (fmt : Fmt) (z : DWord) : Prop := 0 < expOf z ∧ expOf z < 2047 ∧ (fmt = .single → fracOf z % 2 ^ 29 = 0)

/-- The last bit of the significand in the format is 0 (R559). -/
def evenIn (fmt : Fmt) (r : DWord) : Prop :=
  match fmt with
  | .double => bitAt r 63 = false
  | .single => ∃ w : Word, doubleOf w = r ∧ bitAt w 31 = false

/-- The last bit of the significand of an adjusted result is 0: that of weight `2^-52`, or of weight `2^-23` (R559, R581, R586). -/
def evenPrecision (fmt : Fmt) (r : DWord) : Prop :=
  match fmt with
  | .double => bitAt r 63 = false
  | .single => bitAt r 34 = false

/-- Of the numbers that are `member`, `r` is the one that the rounding mode `rn` selects for the exact value `num / den` (as
`scaledValue` scales it, `den` positive): the nearest, of two nearest the `even` one, or the next toward zero, up, or down
(R559). -/
def selects (member even : DWord → Prop) (rn : BitVec 2) (num den : Int) (r : DWord) : Prop :=
  let below := scaledValue r * den ≤ num ∧ ∀ z : DWord, member z → scaledValue z * den ≤ num → scaledValue z ≤ scaledValue r
  let above := num ≤ scaledValue r * den ∧ ∀ z : DWord, member z → num ≤ scaledValue z * den → scaledValue r ≤ scaledValue z
  let far := fun z : DWord => (scaledValue z * den - num).natAbs
  member r ∧
    (rn = 0 → ∀ z : DWord, member z → far r ≤ far z ∧ (far r = far z → scaledValue z ≠ scaledValue r → even r)) ∧
    (rn = 1 → if num < 0 then above else below) ∧ (rn = 2 → above) ∧ (rn = 3 → below)

/-- The finite number `r` of the format is the one that the rounding mode selects for `num / den` (R559). -/
def roundsTo (fmt : Fmt) : BitVec 2 → Int → Int → DWord → Prop := selects (inFormat fmt) (evenIn fmt)

/-- `2^Emin` of a format, scaled (R531). -/
def minNormal : Fmt → Nat
  | .single => 2 ^ 948
  | .double => 2 ^ 52

/-- `2^(Emax + 1)` of a format, scaled: the number after its largest one (R531). -/
def pastLargest : Fmt → Nat
  | .single => 2 ^ 1202
  | .double => 2 ^ 2098

/-- What the last bit of the largest number of a format weighs, scaled (R531). -/
def topUlp : Fmt → Nat
  | .single => 2 ^ 1178
  | .double => 2 ^ 2045

/-- Rounded in the mode with no bound on the exponent, the exact value is beyond the largest number of the format (R580). -/
def overflows (fmt : Fmt) (rn : BitVec 2) (num : Int) (den : Nat) : Prop :=
  if rn = 0 then den * (2 * pastLargest fmt - topUlp fmt) ≤ 2 * num.natAbs
  else if rn = (if num < 0 then 3 else 2) then den * (pastLargest fmt - topUlp fmt) < num.natAbs
  else den * pastLargest fmt ≤ num.natAbs

/-- What stands in for an overflowing value: an infinity, or the largest number where the mode does not go beyond it (R582). -/
def beyond (fmt : Fmt) (rn : BitVec 2) (neg : Bool) : DWord :=
  let sign : DWord := if neg then 0x8000000000000000#64 else 0
  let largest : DWord := match fmt with
    | .single => 0x47EFFFFFE0000000#64
    | .double => 0x7FEFFFFFFFFFFFFF#64
  sign ||| (if rn = 0 ∨ rn = (if neg then 3 else 2) then 0x7FF0000000000000#64 else largest)

/-- The class of a finite result and its sign: zero, denormalized or normalized in the format (R71, R544). -/
def classOf (fmt : Fmt) (r : DWord) : BitVec 5 :=
  let m := (scaledValue r).natAbs
  if signOf r then (if m = 0 then 0b10010#5 else if m < minNormal fmt then 0b11000#5 else 0b01000#5)
  else (if m = 0 then 0b00010#5 else if m < minNormal fmt then 0b10100#5 else 0b00100#5)

/-- The status of a finite result whose magnitude is `m`, where the exact one is `num / den`: FPRF, FR if the magnitude was
incremented, FI and Inexact if the two differ, Underflow if besides that the exact value is below the normalized numbers
(R71, R544, R557, R587, R590). -/
def rightStatus (fmt : Fmt) (r : DWord) (inc inexact tiny : Prop) (o : FpOut) : Prop :=
  o.fprf = some (classOf fmt r) ∧ (o.fr = true ↔ inc) ∧ (o.fi = true ↔ inexact) ∧
    ∀ e : FpExc, e ∈ o.occ ↔ (e = .xx ∧ inexact) ∨ (e = .ux ∧ tiny ∧ inexact)

/-- What the exponent of a result is adjusted by (R581, R586). -/
def adjustment : Fmt → Nat
  | .single => 192
  | .double => 1536

/-- The outcome of an enabled Overflow or Underflow `e` whose exact value with its exponent adjusted is `num / den`: that value
rounded to the precision of the format, the class of a normalized number, FR, FI and Inexact of that rounding (R581, R586, R590).
It is said of adjusted values in the range of the normalized doubles below `2^1023`, which those of operands of the format are. -/
def adjustedTo (fmt : Fmt) (f : Word) (e : FpExc) (num : Int) (den : Nat) (o : FpOut) : Prop :=
  den * minNormal .double ≤ num.natAbs → 2 * num.natAbs < den * pastLargest .double → ∃ r : DWord, o.result = some r ∧
    selects (inPrecision fmt) (evenPrecision fmt) (fld f 30 2) num den r ∧ signOf r = decide (num < 0) ∧
    o.fprf = some (if num < 0 then 0b01000#5 else 0b00100#5) ∧ (o.fr = true ↔ num.natAbs < (scaledValue r).natAbs * den) ∧
    (o.fi = true ↔ scaledValue r * den ≠ num) ∧ ∀ x : FpExc, x ∈ o.occ ↔ x = e ∨ (x = .xx ∧ scaledValue r * den ≠ num)

/-- The operation delivers the exact value `num / den` rounded once to the format (R559, R560): a finite number with its status,
the sign of an exact zero being `neg`; where the value is below the normalized numbers and Underflow is enabled, the value with
its exponent adjusted upward (R586); where it overflows, what stands in for it (R582) or, with Overflow enabled, the value with
its exponent adjusted downward (R581). -/
def rounded (fmt : Fmt) (f : Word) (neg : Bool) (num : Int) (den : Nat) (o : FpOut) : Prop :=
  let rn : BitVec 2 := fld f 30 2
  let scale : Nat := 2 ^ adjustment fmt
  let trapped := bitAt f 26 = true ∧ num ≠ 0 ∧ num.natAbs < minNormal fmt * den
  (¬ overflows fmt rn num den → ¬ trapped → ∃ r : DWord, o.result = some r ∧ roundsTo fmt rn num den r ∧
    signOf r = (if num = 0 then neg else decide (num < 0)) ∧
    rightStatus fmt r (num.natAbs < (scaledValue r).natAbs * den) (scaledValue r * den ≠ num)
      (num.natAbs < minNormal fmt * den) o) ∧
  (trapped → adjustedTo fmt f .ux (num * scale) den o) ∧
  (overflows fmt rn num den → bitAt f 25 = false →
    let r := beyond fmt rn (decide (num < 0))
    o.result = some r ∧ o.fprf = some (if expOf r < 2047 then classOf fmt r else if num < 0 then 0b01001#5 else 0b00101#5) ∧
      o.fi = true ∧ ∀ e : FpExc, e ∈ o.occ ↔ e = .ox ∨ e = .xx) ∧
  (overflows fmt rn num den → bitAt f 25 = true → FpExc.ox ∈ o.occ ∧ adjustedTo fmt f .ox num (den * scale) o)

/-- The operation delivers the square root of the positive number `b` of the format, rounded once (R705). Scaled values are
compared by their squares, with that of the root, `n`: no number stands between it and the result that the mode prefers. -/
def rootRounded (fmt : Fmt) (f : Word) (b : DWord) (o : FpOut) : Prop :=
  let rn : BitVec 2 := fld f 30 2
  let n := scaledValue b * 2 ^ 1074
  ∃ r : DWord, o.result = some r ∧ inFormat fmt r ∧ signOf r = false ∧
    (∀ z : DWord, inFormat fmt z → 0 ≤ scaledValue z →
      (rn = 0 → (scaledValue r < scaledValue z → 4 * n ≤ (scaledValue r + scaledValue z) ^ 2) ∧
        (scaledValue z < scaledValue r → (scaledValue r + scaledValue z) ^ 2 ≤ 4 * n)) ∧
      (rn = 1 ∨ rn = 3 → scaledValue r ^ 2 ≤ n ∧ (scaledValue r < scaledValue z → n < scaledValue z ^ 2)) ∧
      (rn = 2 → n ≤ scaledValue r ^ 2 ∧ (scaledValue z < scaledValue r → scaledValue z ^ 2 < n))) ∧
    rightStatus fmt r (n < scaledValue r ^ 2) (scaledValue r ^ 2 ≠ n) False o

/-- The same operation with its result negated after rounding, and the class of what is delivered, an infinity included (R660,
R665, R667). -/
def negatedOut (fmt : Fmt) (o o' : FpOut) : Prop :=
  o'.fr = o.fr ∧ o'.fi = o.fi ∧ o'.occ = o.occ ∧ ∀ r : DWord, o.result = some r →
    o'.result = some (r ^^^ 0x8000000000000000#64) ∧
      (expOf r < 2047 → o'.fprf = some (classOf fmt (r ^^^ 0x8000000000000000#64))) ∧
      (expOf r = 2047 → o'.fprf = some (if signOf r then 0b00101#5 else 0b01001#5))

/-- The integer that the rounding mode selects for a value that `scaledValue` scales (R559, R612). -/
def integerOf (rn : BitVec 2) (num : Int) : Int :=
  let u : Int := 2 ^ 1074
  if rn = 1 then num.tdiv u
  else if rn = 2 then -((-num) / u)
  else if rn = 3 then num / u
  else if 2 * (num % u) < u ∨ (2 * (num % u) = u ∧ num / u % 2 = 0) then num / u
  else num / u + 1

/-- The exceptions with the numbers of their FPSCR bits and of their enable bits (R65, R522). -/
def exceptionPlaces : List (FpExc × Nat × Nat) :=
  [(.ox, 3, 25), (.ux, 4, 26), (.zx, 5, 27), (.xx, 6, 28), (.vxsnan, 7, 24), (.vxisi, 8, 24), (.vxidi, 9, 24), (.vxzdz, 10, 24),
    (.vximz, 11, 24), (.vxvc, 12, 24), (.vxsqrt, 22, 24), (.vxcvi, 23, 24)]

/-- VX is the OR of the Invalid Operation bits, FEX that of the exceptions with their enable bits (R68, R69). -/
def summariesHold (g : Word) : Prop :=
  (bitAt g 2 = true ↔ ∃ p ∈ [7, 8, 9, 10, 11, 12, 21, 22, 23], bitAt g p = true) ∧
    (bitAt g 1 = true ↔ ∃ p ∈ [(2, 24), (3, 25), (4, 26), (5, 27), (6, 28)], bitAt g p.1 = true ∧ bitAt g p.2 = true)

/-- FPSCR `g` records in FPSCR `f` the exceptions that occurred: an exception bit is sticky and set by its exception alone, FX is
set by a bit that goes from 0 to 1 and sticky too (R66, R67), FEX and VX are the ORs. -/
def recordsExceptions (occ : List FpExc) (f g : Word) : Prop :=
  (∀ p ∈ exceptionPlaces, bitAt g p.2.1 = (bitAt f p.2.1 || decide (p.1 ∈ occ))) ∧
    (bitAt g 0 = true ↔ bitAt f 0 = true ∨ ∃ p ∈ exceptionPlaces, p.1 ∈ occ ∧ bitAt f p.2.1 = false) ∧ summariesHold g

/-- No exception that occurs has its enable bit 1, or the exception mode is Ignore Exceptions: no handler is invoked (R565). -/
def untrapped (occ : List FpExc) (s : State) : Prop :=
  (∀ p ∈ exceptionPlaces, p.1 ∈ occ → bitAt s.fpscr p.2.2 = false) ∨ s.params.fe = .ignore

/-- The target register of a floating-point operation, unless the operation suppresses it, with its history (R563, R640); the
FPSCR with the exceptions, FR, FI, and FPRF unless suppressed; with the Rc bit CR field 1, which copies FX, FEX, VX and OX as
they then are (R53, R561, R568). -/
def delivers (frt : Reg) (rc single : Bool) (o : FpOut) (s t : State) : Prop :=
  (∀ v : DWord, o.result = some v → t.readFpr frt = v ∧ t.isSingle frt = single) ∧
    (o.result = none → t.readFpr frt = s.readFpr frt ∧ t.isSingle frt = s.isSingle frt) ∧
    recordsExceptions o.occ s.fpscr t.fpscr ∧ bitAt t.fpscr 13 = o.fr ∧ bitAt t.fpscr 14 = o.fi ∧
    fld t.fpscr 15 5 = o.fprf.getD (fld s.fpscr 15 5) ∧ (rc = true → t.crField 1 = fld t.fpscr 0 4)

/-- The field of CR a floating-point instruction with the Rc bit writes. -/
def fpRecordField (rc : Bool) : List FieldNum := if rc then [1] else []

/-- The FPSCR bits a floating-point operation may change: FX, FEX, VX, the exception bits, FR, FI and FPRF (R561). -/
def operationBits : List Nat := [0, 1, 2, 3, 4, 5, 6, 7, 8, 9, 10, 11, 12, 13, 14, 15, 16, 17, 18, 19, 22, 23]

/-- What a floating-point operation with target `frt` may change. -/
def fpChanges (frt : Reg) (rc : Bool) : Changes := { fprs := [frt], cr := fpRecordField rc, fpscr := operationBits }

/-- The floating-point operation `o` completes: its result and status are delivered, nothing else changes. -/
def fpCompletes (out : Out) (frt : Reg) (rc single : Bool) (o : FpOut) (s : State) : Prop :=
  untrapped o.occ s → completesWith out s (fpChanges frt rc) (delivers frt rc single o s)

/-- The floating-point operation `o` has an enabled exception: status, and the result unless it is suppressed, are delivered, and
the handler is invoked for this instruction (R563, R568, R798). -/
def fpTraps (out : Out) (frt : Reg) (rc single : Bool) (o : FpOut) (s : State) : Prop :=
  ¬ untrapped o.occ s →
    completes out (fun t => t.outcome = some (.fpEnabled s.pc) ∧ t.pc = s.pc ∧ delivers frt rc single o s t ∧
      Leaves (fpChanges frt rc) s { t with outcome := s.outcome })

/-- The floating-point operation `o` completes, or, with an enabled exception, invokes the handler. `single` says whether it is a
single-precision instruction, whose result R640 remembers as such (log 21). -/
def fpDelivers (out : Out) (frt : Reg) (rc single : Bool) (o : FpOut) (s : State) : Prop :=
  fpCompletes out frt rc single o s ∧ fpTraps out frt rc single o s

/-- A single-precision instruction on an operand that the single format does not represent (R650; log 20): it completes with FRT,
the listed FPSCR bits and, with the Rc bit, CR field 1 undefined; FEX and VX are the ORs. -/
def undefinedDelivers (out : Out) (frt : Reg) (rc : Bool) (bits : List Nat) (s : State) : Prop :=
  completesWith out s { fprs := [frt], cr := fpRecordField rc, fpscr := [1, 2] ++ bits }
    (fun t => t.isSingle frt = true ∧ summariesHold t.fpscr)

/-- The FPSCR bits in the list of every single-precision arithmetic instruction: FX OX UX XX VXSNAN FR FI FPRF (R650). -/
def singleBits : List Nat := [0, 3, 4, 6, 7, 13, 14, 15, 16, 17, 18, 19]

/-! ### NaNs, infinities and zeros as operands -/

/-- The operand that a NaN result takes its bits from, made quiet: the first that is a NaN; without one the QNaN that the
processor generates (R541 to R543). -/
def quietNaN (operands : List DWord) : DWord :=
  match operands.filter isNaN with
  | [] => 0x7FF8000000000000#64
  | a :: _ => a ||| 0x0008000000000000#64

/-- The outcome of an Invalid Operation (R571, R572): FR and FI are 0; enabled, no result and no FPRF; disabled, the QNaN. -/
def invalidOperation (f : Word) (occ : List FpExc) (nan : DWord) (o : FpOut) : Prop :=
  o.occ = occ ∧ o.fr = false ∧ o.fi = false ∧ (bitAt f 24 = true → o.result = none ∧ o.fprf = none) ∧
    (bitAt f 24 = false → o.result = some nan ∧ o.fprf = some 0b10001#5)

/-- The outcome of a Zero Divide (R576, R577): as for an Invalid Operation, with an infinity of the sign. -/
def zeroDivide (f : Word) (neg : Bool) (o : FpOut) : Prop :=
  o.occ = [.zx] ∧ o.fr = false ∧ o.fi = false ∧ (bitAt f 27 = true → o.result = none ∧ o.fprf = none) ∧
    (bitAt f 27 = false → o.result = some (if neg then 0xFFF0000000000000#64 else 0x7FF0000000000000#64) ∧
      o.fprf = some (if neg then 0b01001#5 else 0b00101#5))

/-- The result is exact, with its class, and no exception occurs (R557). -/
def exactly (x : DWord) (c : BitVec 5) (o : FpOut) : Prop :=
  o.result = some x ∧ o.fprf = some c ∧ o.fr = false ∧ o.fi = false ∧ o.occ = []

/-- An exact infinity. -/
def exactInfinity (neg : Bool) (o : FpOut) : Prop :=
  exactly (if neg then 0xFFF0000000000000#64 else 0x7FF0000000000000#64) (if neg then 0b01001#5 else 0b00101#5) o

/-- An exact zero. -/
def exactZero (neg : Bool) (o : FpOut) : Prop :=
  exactly (if neg then 0x8000000000000000#64 else 0) (if neg then 0b10010#5 else 0b00010#5) o

/-- The result of a conversion to a doubleword or a word is the integer `n`; of a word FRT[0:31] is open (R612, R673). -/
def deliversInteger (word : Bool) (n : Int) (o : FpOut) : Prop :=
  ∃ r : DWord, o.result = some r ∧ (if word then (r.setWidth 32).toInt else r.toInt) = n

/-- The outcome of a conversion to an integer that is an Invalid Operation (R571, R572): FR and FI are 0; enabled, no result and no
FPRF; disabled, the extreme integer of the sign. -/
def invalidConversion (word : Bool) (f : Word) (occ : List FpExc) (neg : Bool) (o : FpOut) : Prop :=
  let limit : Int := if word then 2 ^ 31 else 2 ^ 63
  o.occ = occ ∧ o.fr = false ∧ o.fi = false ∧ (bitAt f 24 = true → o.result = none ∧ o.fprf = none) ∧
    (bitAt f 24 = false → deliversInteger word (if neg then -limit else limit - 1) o)

/-- An operation on operands of which one is a NaN: an Invalid Operation if one is signaling, else the first NaN (R542, R571). -/
def nanOperands (f : Word) (operands : List DWord) (o : FpOut) : Prop :=
  ((∃ x ∈ operands, isSNaN x = true) → invalidOperation f [.vxsnan] (quietNaN operands) o) ∧
    ((∀ x ∈ operands, isSNaN x = false) → (∃ x ∈ operands, isNaN x = true) → exactly (quietNaN operands) 0b10001#5 o)

/-- One CR logical instruction: bit BT becomes `f` of bits BA and BB, every other bit of CR is as before (R240). -/
def combinesCrBits (out : Out) (f : Bool → Bool → Bool) (bt ba bb : BitNum) (s : State) : Prop :=
  completesWith out s { cr := [BitVec.ofNat 3 (bt.toNat / 4)] } (fun t =>
    ∀ n : BitNum, t.crBit n = if n = bt then f (s.crBit ba) (s.crBit bb) else s.crBit n)

/-- A single-precision load, in double format; the register then holds a single-precision value (R640; log 21). -/
def loadsSingle (out : Out) (c : Changes) (frt : Reg) (ea : DWord) (P : State → Prop) (s : State) : Prop :=
  accessible .load ea 4 s → completesWith out s c (fun t =>
    (∀ w : Word, holdsBytes (w.setWidth 64) ea 4 s → t.readFpr frt = doubleOf w) ∧ t.isSingle frt = true ∧ P t)

/-- A double-precision load; the register then holds no single-precision value (R640; log 21). -/
def loadsDouble (out : Out) (c : Changes) (frt : Reg) (ea : DWord) (P : State → Prop) (s : State) : Prop :=
  accessible .load ea 8 s → completesWith out s c (fun t =>
    holdsBytes (t.readFpr frt) ea 8 s ∧ t.isSingle frt = false ∧ P t)

/-- A single-precision store: the word of the value where it is defined, some word where it is not. -/
def storesSingle (out : Out) (gprs : List Reg) (x ea : DWord) (P : State → Prop) (s : State) : Prop :=
  Memory.wf s.mem = true → accessible .store ea 4 s →
    completesWith out s { gprs := gprs, bytes := s.operandAddrs ea 4 } (fun t =>
      (singleUndefined x = false → holdsBytes ((singleOf x).setWidth 64) ea 4 t) ∧ P t)

/-- A store of the low-order `n` bytes of a floating-point register. -/
def storesFpr (out : Out) (gprs : List Reg) (x ea : DWord) (n : Nat) (P : State → Prop) (s : State) : Prop :=
  Memory.wf s.mem = true → accessible .store ea n s →
    completesWith out s { gprs := gprs, bytes := s.operandAddrs ea n } (fun t => holdsBytes x ea n t ∧ P t)

end Sys2Proof.Machine
end

