-- ==== Sys2Proof/WellFormed.lean ====
section
/-! DEFINITION. Well-formed instructions: no invalid form of R208, checked one condition at a time on the syntax alone. Every
other field may hold any value: the fields' widths are the encoding's (R170). -/
namespace Sys2Proof

open Machine

/-- Why an instruction is in an invalid form (R208). -/
inductive FormError where
  /-- `sc` with instruction bit 30 = 0 (R234). -/
  | scBit30
  /-- `bcctr` with BO[2] = 0 (R233). -/
  | countBranch
  /-- A fixed-point load with update with RA = 0 or RA = RT (R262). -/
  | loadUpdate
  /-- A store, or a floating-point access, with update and RA = 0 (R262, R620). -/
  | update
  /-- `lmw` with RA in the range loaded (R320). -/
  | multiple
  /-- `lswi` with RA in the range loaded (R330). -/
  | stringImmediate
  /-- `lswx` with RT = RA or RT = RB (R331). -/
  | stringIndexed
  deriving DecidableEq, Repr

/-- `e` when the condition holds. -/
def formErrorIf (bad : Bool) (e : FormError) : Option FormError := if bad then some e else none

/-- The check: `none` for a well-formed instruction (R208). -/
def Instr.check : Instr → Option FormError
  | .sc _ one => formErrorIf (!one) .scBit30
  | .bcctr bo _ _ _ => formErrorIf (badCountBranch bo) .countBranch
  | .lbzu rt _ ra | .lhzu rt _ ra | .lhau rt _ ra | .lwzu rt _ ra => formErrorIf (badLoadUpdate rt ra) .loadUpdate
  | .ldu rt _ ra => formErrorIf (badLoadUpdate rt ra) .loadUpdate
  | .lbzux rt ra _ | .lhzux rt ra _ | .lhaux rt ra _ | .lwzux rt ra _ | .lwaux rt ra _ | .ldux rt ra _ =>
    formErrorIf (badLoadUpdate rt ra) .loadUpdate
  | .stbu _ _ ra | .sthu _ _ ra | .stwu _ _ ra | .lfsu _ _ ra | .lfdu _ _ ra | .stfsu _ _ ra | .stfdu _ _ ra =>
    formErrorIf (badUpdate ra) .update
  | .stdu _ _ ra => formErrorIf (badUpdate ra) .update
  | .stbux _ ra _ | .sthux _ ra _ | .stwux _ ra _ | .stdux _ ra _ | .lfsux _ ra _ | .lfdux _ ra _ | .stfsux _ ra _
  | .stfdux _ ra _ => formErrorIf (badUpdate ra) .update
  | .lmw rt _ ra => formErrorIf (badMultiple rt ra) .multiple
  | .lswi rt ra nb => formErrorIf (badStringImm rt ra nb) .stringImmediate
  | .lswx rt ra rb => formErrorIf (badStringIdx rt ra rb) .stringIndexed
  | _ => none

/-- The instruction is in no invalid form (R208). -/
def Instr.wellFormed (i : Instr) : Bool := i.check.isNone

end Sys2Proof
end

