-- ==== Sys2Proof/Certificates/Slice0/Obligations.lean ====
section
/-! DEFINITION. The statements for the provers. A statement about an instruction speaks of `exec`, of the state before and of the
state it answers; `completesWith out s c P` says that `out` is a next state at the next sequential instruction, with nothing
but what `c` lists changed, of which `P` holds. Where a docstring names a log entry ("log n": notes/assumptions/<n>.md), the
clause in question rests on the model's choice that the entry declares. -/

section

open Sys2Proof Sys2Proof.Machine

/-! ### Encoding, decoding, the step -/

/-- Decoding the bytes of an instruction's word gives the instruction, whatever follows: no bit of any field is lost (R155 to
R169, R180). It holds of every instruction, the well-formed ones among them. -/
def Obligations.DecodeOfEncodeIsTheInstruction : Prop :=
  ∀ (i : Instr) (rest : List Byte), decode (bytesOfWord (encode i) ++ rest) = .ok (i, rest)

/-- No word is covered by two rows of the opcode table, and a covered word decodes to its row's instruction (R180). Any other word
is rejected: as reserved with primary opcode 0 but for the word of zeros (R203) or an opcode dropped from POWER (R206, R181); as an
invalid form of a defined instruction with the opcodes of `stwcx.` or `stdcx.` and bit 31 = 0 (R200, R204, R208; log 33); else as
illegal (R202, R205). Fewer than four bytes are no instruction (R150). -/
def Obligations.OpcodeRowsDoNotOverlap : Prop :=
  let dropped := [360, 872, 531, 118, 502, 630, 331, 843, 363, 875, 264, 776, 277, 29, 541, 627, 107, 619, 488, 1000, 818, 537,
    153, 217, 184, 248, 216, 152, 952, 920, 665, 921, 729, 696, 760, 728, 664, 823, 791, 951, 919]
  rows.Pairwise (fun a b => ∀ w : Word, ¬ (a.covers w = true ∧ b.covers w = true)) ∧
  (∀ w : Word,
    let op := (fld w 0 6).toNat
    let xo := (fld w 21 10).toNat
    let reserved := (op = 0 ∧ w ≠ 0) ∨ op ∈ [9, 22] ∨ (op = 19 ∧ xo ∈ [50, 82]) ∨ (op = 31 ∧ xo ∈ dropped) ∨
      (op ∈ [56, 57, 60, 61] ∧ w.toNat % 4 = 0)
    let invalid := op = 31 ∧ xo ∈ [150, 214] ∧ bitAt w 31 = false
    (∀ r ∈ rows, r.covers w = true → decodeWord w = .ok (r.build w)) ∧
    ((∀ r ∈ rows, r.covers w = false) → (reserved → decodeWord w = .error .reservedClass) ∧
      (invalid → decodeWord w = .error .invalidForm) ∧ (¬ reserved → ¬ invalid → decodeWord w = .error .illegalClass)) ∧
    (reserved ∨ invalid ∨ w = 0 ∨ op ∈ [1, 4, 5, 6, 56, 57, 60, 61] → ∀ r ∈ rows, r.covers w = false)) ∧
  ∀ bs : List Byte, bs.length < 4 → decode bs = .error .truncated

/-- Words written out from the spec's encodings decode to the instructions they stand for (R155 to R169). -/
def Obligations.WordsOfTheSpecDecode : Prop :=
  decodeWord 0x4182_0008#32 = .ok (.bc 12 2 2 false false) ∧ decodeWord 0xE864_000A#32 = .ok (.lwa 3 2 4) ∧
    decodeWord 0x7C64_2A15#32 = .ok (.add 3 4 5 false true) ∧ decodeWord 0x7883_E102#32 = .ok (.rldicl 3 4 60 4 false) ∧
    decodeWord 0xFC22_20FA#32 = .ok (.fmadd 1 2 3 4 false) ∧ decodeWord 0x7C69_03A6#32 = .ok (.mtspr 9 3)

/-- A step where the bytes `iea(pc)` to `iea(pc) + 3` may be fetched (R791), those that hold the word are unmodified (log 8) and it
decodes to an instruction is `exec` of it: `exec` itself moves the instruction address (R785). -/
def Obligations.StepRunsTheDecodedInstruction : Prop :=
  ∀ (s : State) (i : Instr) (rest : List Byte), s.outcome = none →
    (∀ k : Nat, k < 4 → s.available .fetch (s.iea (wordAligned s.pc + BitVec.ofNat 64 k)).toNat = true) →
    (∀ a ∈ s.fetchAddrs, a ∉ s.modified) → decode (s.fetchAddrs.map s.readByte) = .ok (i, rest) → step s = exec i s

/-- A fetch with one of the bytes `iea(pc)` to `iea(pc) + 3` not available raises InstructionStorage (R791), and a fetched word of
the illegal or the reserved class IllegalInstruction (R790, R202, R203; log 24); nothing else changes. A word in an invalid form that
no row covers, a `stwcx.` or `stdcx.` with bit 31 = 0, stops as invalid forms do (R208; log 6, log 33). The model's own stops: while a
handler has control (log 4), and at a byte the program has stored into (log 8). -/
def Obligations.StepWhereNoInstructionRuns : Prop :=
  let mayFetch := fun (s : State) (k : Nat) => s.available .fetch (s.iea (wordAligned s.pc + BitVec.ofNat 64 k)).toNat
  (∀ s : State, s.outcome = none → (∃ k : Nat, k < 4 ∧ mayFetch s k = false) →
    raises (step s) (.instructionStorage s.pc) s) ∧
  (∀ (s : State) (e : DecodeError), s.outcome = none → (∀ k : Nat, k < 4 → mayFetch s k = true) →
    (∀ a ∈ s.fetchAddrs, a ∉ s.modified) → decode (s.fetchAddrs.map s.readByte) = .error e →
    if e = .invalidForm then step s = .fault .invalidForm else raises (step s) (.illegalInstruction s.currentWord s.pc) s) ∧
  (∀ (s : State) (e : Exception), s.outcome = some e → step s = .fault .handlerInControl) ∧
  (∀ s : State, s.outcome = none → (∀ k : Nat, k < 4 → mayFetch s k = true) → (∃ a ∈ s.fetchAddrs, a ∈ s.modified) →
    step s = .fault .fetchModified)

/-- Every step keeps the invariant: storage canonical, the instruction address word-aligned and, in 32-bit mode, below 2^32
(R46), FEX and VX the ORs of their bits (R68, R69), reserved bits not held where they are not stored (R64; log 22). -/
def Obligations.StepKeepsTheInvariant : Prop :=
  ∀ s t : State, s.inv = true → step s = .next t → t.inv = true

/-- The state after reset meets the invariant, and its byte order is Big-Endian (R90); the other reset values it meets
it with are the model's choice (log 1, log 2, log 3). -/
def Obligations.ResetMeetsTheInvariantInBigEndianOrder : Prop :=
  State.reset.inv = true ∧ State.reset.le = false ∧ State.reset.littleEndian = false

/-- No step changes the byte order, its setting for handlers, or a parameter (R12, R113; log 1, log 27). -/
def Obligations.StepKeepsModeAndParameters : Prop :=
  ∀ s t : State, step s = .next t → sameMode s t

/-! ### Branch Processor -/

/-- `b`: the target is the field with 0b00 appended, sign-extended, added to the address of the branch unless AA is 1; LR is the
next address if LK is 1 (R221, R225, R230). -/
def Obligations.BranchGoesToItsTarget : Prop :=
  ∀ (s : State) (li : BitVec 24) (aa lk : Bool), completes (exec (.b li aa lk) s) (fun t =>
    t.pc = s.iea ((if aa then 0 else s.pc) + (li ++ 0#2).signExtend 64) ∧ (lk = true → t.lr = s.nextPc) ∧
      Leaves { lr := lk } s t)

/-- `bc` and `bclr`: CTR is decremented unless BO[2] is 1; the branch is taken when the count and the condition that BO selects
hold; LR is the next address if LK is 1, taken or not; `bclr` branches to the old LR (R221, R225, R226, R231, R232). -/
def Obligations.ConditionalBranchesDecrementTestAndLink : Prop :=
  ∀ (s : State) (bo : BitVec 5) (bi : BitNum) (bd : BitVec 14) (bh : BitVec 2) (aa lk : Bool),
    let ctr := if bitAt bo 2 then s.ctr else s.ctr - 1
    let taken := (bitAt bo 2 || (decide (s.unsignedLow ctr ≠ 0) != bitAt bo 3)) && (bitAt bo 0 || (s.crBit bi == bitAt bo 1))
    completes (exec (.bc bo bi bd aa lk) s) (fun t =>
      t.pc = (if taken then s.iea ((if aa then 0 else s.pc) + (bd ++ 0#2).signExtend 64) else s.nextPc) ∧ t.ctr = ctr ∧
        (lk = true → t.lr = s.nextPc) ∧ Leaves { lr := lk, ctr := true } s t) ∧
    completes (exec (.bclr bo bi bh lk) s) (fun t =>
      t.pc = (if taken then s.iea (wordAligned s.lr) else s.nextPc) ∧ t.ctr = ctr ∧ (lk = true → t.lr = s.nextPc) ∧
        Leaves { lr := lk, ctr := true } s t)

/-- `bcctr`: to the address in CTR when the condition that BO selects holds; with BO[2] = 0 the form is invalid (R233, R208;
log 6). -/
def Obligations.BranchToCountRegister : Prop :=
  ∀ (s : State) (bo : BitVec 5) (bi : BitNum) (bh : BitVec 2) (lk : Bool),
    (bitAt bo 2 = true → completes (exec (.bcctr bo bi bh lk) s) (fun t =>
      t.pc = (if bitAt bo 0 || (s.crBit bi == bitAt bo 1) then s.iea (wordAligned s.ctr) else s.nextPc) ∧
        (lk = true → t.lr = s.nextPc) ∧ Leaves { lr := lk } s t)) ∧
    (bitAt bo 2 = false → exec (.bcctr bo bi bh lk) s = .fault .invalidForm)

/-- `sc` takes the System Call exception with the rightmost bit of LEV and the address of the next instruction; with instruction
bit 30 = 0 the form is invalid (R234, R795, R208; log 4, log 6, log 28). -/
def Obligations.SystemCallIsTaken : Prop :=
  ∀ (s : State) (lev : BitVec 7), raises (exec (.sc lev true) s) (.systemCall (lev.getLsbD 0) s.nextPc) s ∧
    exec (.sc lev false) s = .fault .invalidForm

/-- The CR logical instructions and `mcrf` (R240 to R249). -/
def Obligations.ConditionRegisterInstructions : Prop :=
  ∀ (s : State) (bt ba bb : BitNum) (bf bfa : FieldNum),
    combinesCrBits (exec (.crand bt ba bb) s) (fun a b => a && b) bt ba bb s ∧
    combinesCrBits (exec (.cror bt ba bb) s) (fun a b => a || b) bt ba bb s ∧
    combinesCrBits (exec (.crxor bt ba bb) s) (fun a b => a != b) bt ba bb s ∧
    combinesCrBits (exec (.crnand bt ba bb) s) (fun a b => !a || !b) bt ba bb s ∧
    combinesCrBits (exec (.crnor bt ba bb) s) (fun a b => !a && !b) bt ba bb s ∧
    combinesCrBits (exec (.creqv bt ba bb) s) (fun a b => !(a != b)) bt ba bb s ∧
    combinesCrBits (exec (.crandc bt ba bb) s) (fun a b => a && !b) bt ba bb s ∧
    combinesCrBits (exec (.crorc bt ba bb) s) (fun a b => a || !b) bt ba bb s ∧
    completesWith (exec (.mcrf bf bfa) s) s { cr := [bf] } (fun t => t.crField bf = s.crField bfa)

/-! ### Storage -/

/-- Where the bytes of a scalar lie: in Big-Endian mode from its address upward, most significant first (R106); in Little-Endian
mode an aligned scalar of `n` bytes from its address exclusive-ORed with 8 - n upward (R115), and of any scalar, unaligned ones
among them, the byte of significance `k` at `sa(ea + k)` exclusive-ORed with 7 (R116). -/
def Obligations.BytesOfAScalar : Prop :=
  ∀ (s : State) (ea : DWord) (n i : Nat), i < n →
    (s.littleEndian = false → s.byteAddr ea n i = (s.sa (ea + BitVec.ofNat 64 i)).toNat) ∧
    (s.littleEndian = true → n = 1 ∨ n = 2 ∨ n = 4 ∨ n = 8 → ea.toNat % n = 0 →
      s.byteAddr ea n i = (s.sa ea ^^^ BitVec.ofNat 64 (8 - n)).toNat + i) ∧
    (s.littleEndian = true → ∀ k : Nat, i + k + 1 = n →
      s.byteAddr ea n i = (s.sa (ea + BitVec.ofNat 64 k) ^^^ 7#64).toNat)

/-- (RA|0) and the effective addresses of the D, DS and X forms: 64-bit sums of (RA|0), which is 0 for RA = 0, and the sign-extended
displacement or register RB, whatever its number (R101, R102, R261). Storage and the instruction address take all of it in 64-bit
mode; in 32-bit mode its low-order half alone counts, for each byte of an operand (R104). -/
def Obligations.HighHalfOfAddressesIsIgnored : Prop :=
  (∀ (s : State) (ra rb : Reg) (d : BitVec 16) (ds : BitVec 14),
    let base := if ra = 0 then 0 else s.readGpr ra
    s.ra0 ra = base ∧ s.eaD ra d = base + BitVec.ofInt 64 d.toInt ∧ s.eaDS ra ds = base + BitVec.ofInt 64 (4 * ds.toInt) ∧
      s.eaX ra rb = base + s.readGpr rb) ∧
  (∀ (s : State) (x : DWord), (s.params.mode64 = true → s.sa x = x ∧ s.iea x = x) ∧
    (s.params.mode64 = false → (s.sa x).toNat = x.toNat % 2 ^ 32 ∧ (s.iea x).toNat = x.toNat % 2 ^ 32)) ∧
  ∀ (s : State) (x y : DWord), s.params.mode64 = false → loWord x = loWord y →
    s.iea x = s.iea y ∧ ∀ n i : Nat, s.byteAddr x n i = s.byteAddr y n i

/-- The fixed-point loads without update: the bytes of storage with zeros, with copies of their sign, or in reverse order
(R270 to R290, R314, R315; when the operand may be accessed: log 23, log 30). -/
def Obligations.FixedPointLoads : Prop :=
  ∀ (s : State) (rt ra rb : Reg) (d : BitVec 16) (ds : BitVec 14),
    loadsZero (exec (.lbz rt d ra) s) rt (s.eaD ra d) 1 s ∧ loadsZero (exec (.lbzx rt ra rb) s) rt (s.eaX ra rb) 1 s ∧
    loadsZero (exec (.lhz rt d ra) s) rt (s.eaD ra d) 2 s ∧ loadsZero (exec (.lhzx rt ra rb) s) rt (s.eaX ra rb) 2 s ∧
    loadsZero (exec (.lwz rt d ra) s) rt (s.eaD ra d) 4 s ∧ loadsZero (exec (.lwzx rt ra rb) s) rt (s.eaX ra rb) 4 s ∧
    loadsZero (exec (.ld rt ds ra) s) rt (s.eaDS ra ds) 8 s ∧ loadsZero (exec (.ldx rt ra rb) s) rt (s.eaX ra rb) 8 s ∧
    loadsSigned (exec (.lha rt d ra) s) rt (s.eaD ra d) 2 s ∧ loadsSigned (exec (.lhax rt ra rb) s) rt (s.eaX ra rb) 2 s ∧
    loadsSigned (exec (.lwa rt ds ra) s) rt (s.eaDS ra ds) 4 s ∧ loadsSigned (exec (.lwax rt ra rb) s) rt (s.eaX ra rb) 4 s ∧
    loadsReversed (exec (.lhbrx rt ra rb) s) rt (s.eaX ra rb) 2 s ∧
    loadsReversed (exec (.lwbrx rt ra rb) s) rt (s.eaX ra rb) 4 s

/-- The fixed-point loads with update, in their valid forms: RT as without update, and RA the effective address (R262, R272 to
R292). -/
def Obligations.FixedPointLoadsWithUpdate : Prop :=
  ∀ (s : State) (rt ra rb : Reg) (d : BitVec 16) (ds : BitVec 14),
    loadsUpdating (exec (.lbzu rt d ra) s) rt ra (s.eaD ra d) 1 false s ∧
    loadsUpdating (exec (.lbzux rt ra rb) s) rt ra (s.eaX ra rb) 1 false s ∧
    loadsUpdating (exec (.lhzu rt d ra) s) rt ra (s.eaD ra d) 2 false s ∧
    loadsUpdating (exec (.lhzux rt ra rb) s) rt ra (s.eaX ra rb) 2 false s ∧
    loadsUpdating (exec (.lhau rt d ra) s) rt ra (s.eaD ra d) 2 true s ∧
    loadsUpdating (exec (.lhaux rt ra rb) s) rt ra (s.eaX ra rb) 2 true s ∧
    loadsUpdating (exec (.lwzu rt d ra) s) rt ra (s.eaD ra d) 4 false s ∧
    loadsUpdating (exec (.lwzux rt ra rb) s) rt ra (s.eaX ra rb) 4 false s ∧
    loadsUpdating (exec (.lwaux rt ra rb) s) rt ra (s.eaX ra rb) 4 true s ∧
    loadsUpdating (exec (.ldu rt ds ra) s) rt ra (s.eaDS ra ds) 8 false s ∧
    loadsUpdating (exec (.ldux rt ra rb) s) rt ra (s.eaX ra rb) 8 false s

/-- The fixed-point stores without update: the low-order bytes of RS at the operand's addresses, in order or reversed, and no
other byte (R296 to R309, R316, R317; when the operand may be accessed: log 23, log 30). -/
def Obligations.FixedPointStores : Prop :=
  ∀ (s : State) (rs ra rb : Reg) (d : BitVec 16) (ds : BitVec 14),
    storesAt (exec (.stb rs d ra) s) (s.readGpr rs) (s.eaD ra d) 1 s ∧
    storesAt (exec (.stbx rs ra rb) s) (s.readGpr rs) (s.eaX ra rb) 1 s ∧
    storesAt (exec (.sth rs d ra) s) (s.readGpr rs) (s.eaD ra d) 2 s ∧
    storesAt (exec (.sthx rs ra rb) s) (s.readGpr rs) (s.eaX ra rb) 2 s ∧
    storesAt (exec (.stw rs d ra) s) (s.readGpr rs) (s.eaD ra d) 4 s ∧
    storesAt (exec (.stwx rs ra rb) s) (s.readGpr rs) (s.eaX ra rb) 4 s ∧
    storesAt (exec (.std rs ds ra) s) (s.readGpr rs) (s.eaDS ra ds) 8 s ∧
    storesAt (exec (.stdx rs ra rb) s) (s.readGpr rs) (s.eaX ra rb) 8 s ∧
    storesReversed (exec (.sthbrx rs ra rb) s) (s.readGpr rs) (s.eaX ra rb) 2 s ∧
    storesReversed (exec (.stwbrx rs ra rb) s) (s.readGpr rs) (s.eaX ra rb) 4 s

/-- The fixed-point stores with update, in their valid forms: the old RS is stored, and RA is the effective address, also when
RS = RA (R262, R298 to R311). -/
def Obligations.FixedPointStoresWithUpdate : Prop :=
  ∀ (s : State) (rs ra rb : Reg) (d : BitVec 16) (ds : BitVec 14),
    storesUpdating (exec (.stbu rs d ra) s) (s.readGpr rs) ra (s.eaD ra d) 1 s ∧
    storesUpdating (exec (.stbux rs ra rb) s) (s.readGpr rs) ra (s.eaX ra rb) 1 s ∧
    storesUpdating (exec (.sthu rs d ra) s) (s.readGpr rs) ra (s.eaD ra d) 2 s ∧
    storesUpdating (exec (.sthux rs ra rb) s) (s.readGpr rs) ra (s.eaX ra rb) 2 s ∧
    storesUpdating (exec (.stwu rs d ra) s) (s.readGpr rs) ra (s.eaD ra d) 4 s ∧
    storesUpdating (exec (.stwux rs ra rb) s) (s.readGpr rs) ra (s.eaX ra rb) 4 s ∧
    storesUpdating (exec (.stdu rs ds ra) s) (s.readGpr rs) ra (s.eaDS ra ds) 8 s ∧
    storesUpdating (exec (.stdux rs ra rb) s) (s.readGpr rs) ra (s.eaX ra rb) 8 s

/-- An access that may not be made raises Alignment or DataStorage and changes nothing, RA of an update form and registers loaded
before included: every load and store, fixed and floating point, plain, indexed, reversed and with update (in its valid form); in
Big-Endian mode each access of the multiple and string instructions, in order; in Little-Endian mode these always raise Alignment
(R110, R117, R121, R262, R785, R792, R793; log 4, log 14, log 15, log 30). -/
def Obligations.AccessExceptions : Prop :=
  ∀ (s : State) (r ra rb : Reg) (d : BitVec 16) (ds : BitVec 14) (nb : BitVec 5),
    let ed := s.eaD ra d
    let es := s.eaDS ra ds
    let ex := s.eaX ra rb
    let n := if nb = 0 then 32 else nb.toNat
    let m := s.xer.toNat % 128
    let traps := fun (k : Access) (l : List (Instr × DWord × Nat)) => ∀ p ∈ l, accessTraps (exec p.1 s) k p.2.1 p.2.2 s
    traps .load [(.lbz r d ra, ed, 1), (.lbzx r ra rb, ex, 1), (.lhz r d ra, ed, 2), (.lhzx r ra rb, ex, 2), (.lha r d ra, ed, 2),
      (.lhax r ra rb, ex, 2), (.lwz r d ra, ed, 4), (.lwzx r ra rb, ex, 4), (.lwa r ds ra, es, 4), (.lwax r ra rb, ex, 4),
      (.ld r ds ra, es, 8), (.ldx r ra rb, ex, 8), (.lhbrx r ra rb, ex, 2), (.lwbrx r ra rb, ex, 4), (.lfs r d ra, ed, 4),
      (.lfsx r ra rb, ex, 4), (.lfd r d ra, ed, 8), (.lfdx r ra rb, ex, 8)] ∧
    traps .store [(.stb r d ra, ed, 1), (.stbx r ra rb, ex, 1), (.sth r d ra, ed, 2), (.sthx r ra rb, ex, 2), (.stw r d ra, ed, 4),
      (.stwx r ra rb, ex, 4), (.std r ds ra, es, 8), (.stdx r ra rb, ex, 8), (.sthbrx r ra rb, ex, 2), (.stwbrx r ra rb, ex, 4),
      (.stfs r d ra, ed, 4), (.stfsx r ra rb, ex, 4), (.stfd r d ra, ed, 8), (.stfdx r ra rb, ex, 8), (.stfiwx r ra rb, ex, 4)] ∧
    (ra ≠ 0 → ra ≠ r → traps .load [(.lbzu r d ra, ed, 1), (.lbzux r ra rb, ex, 1), (.lhzu r d ra, ed, 2), (.lhzux r ra rb, ex, 2),
      (.lhau r d ra, ed, 2), (.lhaux r ra rb, ex, 2), (.lwzu r d ra, ed, 4), (.lwzux r ra rb, ex, 4), (.lwaux r ra rb, ex, 4),
      (.ldu r ds ra, es, 8), (.ldux r ra rb, ex, 8)]) ∧
    (ra ≠ 0 → traps .load [(.lfsu r d ra, ed, 4), (.lfsux r ra rb, ex, 4), (.lfdu r d ra, ed, 8), (.lfdux r ra rb, ex, 8)] ∧
      traps .store [(.stbu r d ra, ed, 1), (.stbux r ra rb, ex, 1), (.sthu r d ra, ed, 2), (.sthux r ra rb, ex, 2),
        (.stwu r d ra, ed, 4), (.stwux r ra rb, ex, 4), (.stdu r ds ra, es, 8), (.stdux r ra rb, ex, 8), (.stfsu r d ra, ed, 4),
        (.stfsux r ra rb, ex, 4), (.stfdu r d ra, ed, 8), (.stfdux r ra rb, ex, 8)]) ∧
    (s.littleEndian = false →
      (ra.toNat < r.toNat → firstTraps (exec (.lmw r d ra) s) .load ed 4 (32 - r.toNat) s) ∧
      firstTraps (exec (.stmw r d ra) s) .store ed 4 (32 - r.toNat) s ∧
      ((∀ k : Nat, k < regsFor n → regAfter r k ≠ ra) → firstTraps (exec (.lswi r ra nb) s) .load (s.ra0 ra) 1 n s) ∧
      (r ≠ ra → r ≠ rb → (∀ k : Nat, k < regsFor m → regAfter r k ≠ ra ∧ regAfter r k ≠ rb) →
        firstTraps (exec (.lswx r ra rb) s) .load ex 1 m s) ∧
      firstTraps (exec (.stswi r ra nb) s) .store (s.ra0 ra) 1 n s ∧ firstTraps (exec (.stswx r ra rb) s) .store ex 1 m s) ∧
    (s.littleEndian = true →
      raises (exec (.lmw r d ra) s) (.alignment ed s.pc) s ∧ raises (exec (.stmw r d ra) s) (.alignment ed s.pc) s ∧
      raises (exec (.lswi r ra nb) s) (.alignment (s.ra0 ra) s.pc) s ∧ raises (exec (.lswx r ra rb) s) (.alignment ex s.pc) s ∧
      raises (exec (.stswi r ra nb) s) (.alignment (s.ra0 ra) s.pc) s ∧ raises (exec (.stswx r ra rb) s) (.alignment ex s.pc) s)

/-- `lmw` and `stmw`: consecutive words to and from the low-order halves of registers RT to 31 (R320, R321). When the words may be
accessed follows log 23 and log 30. -/
def Obligations.LoadAndStoreMultiple : Prop :=
  ∀ (s : State) (r ra : Reg) (d : BitVec 16), s.littleEndian = false →
    (ra.toNat < r.toNat → wordsAccessible .load (s.eaD ra d) (32 - r.toNat) s →
      completesWith (exec (.lmw r d ra) s) s { gprs := regsFrom r (32 - r.toNat) } (fun t =>
        ∀ k : Nat, k < 32 - r.toNat →
          holdsBytes (t.readGpr (regAfter r k)) (s.eaD ra d + BitVec.ofNat 64 (4 * k)) 4 s ∧
            (t.readGpr (regAfter r k)).toNat < 2 ^ 32)) ∧
    (Memory.wf s.mem = true → wordsAccessible .store (s.eaD ra d) (32 - r.toNat) s →
      completesWith (exec (.stmw r d ra) s) s
        { bytes := (List.range (32 - r.toNat)).flatMap (fun k => s.operandAddrs (s.eaD ra d + BitVec.ofNat 64 (4 * k)) 4) }
        (fun t => ∀ k : Nat, k < 32 - r.toNat →
          holdsBytes (s.readGpr (regAfter r k)) (s.eaD ra d + BitVec.ofNat 64 (4 * k)) 4 t))

/-- The string instructions: bytes to and from the low-order words of consecutive registers; with a byte count of 0 `lswx`
leaves only RT open and `stswx` stores nothing (R330 to R333; which bytes they are: log 30). -/
def Obligations.LoadAndStoreString : Prop :=
  ∀ (s : State) (r ra rb : Reg) (nb : BitVec 5), s.littleEndian = false →
    let n := if nb = 0 then 32 else nb.toNat
    let m := s.xer.toNat % 128
    ((∀ k : Nat, k < regsFor n → regAfter r k ≠ ra) → loadsString (exec (.lswi r ra nb) s) r (s.ra0 ra) n s) ∧
    (r ≠ ra → r ≠ rb → m ≠ 0 → (∀ k : Nat, k < regsFor m → regAfter r k ≠ ra ∧ regAfter r k ≠ rb) →
      loadsString (exec (.lswx r ra rb) s) r (s.eaX ra rb) m s) ∧
    (r ≠ ra → r ≠ rb → m = 0 → completesWith (exec (.lswx r ra rb) s) s { gprs := [r] } (fun _ => True)) ∧
    storesString (exec (.stswi r ra nb) s) r (s.ra0 ra) n s ∧ storesString (exec (.stswx r ra rb) s) r (s.eaX ra rb) m s

/-- The invalid forms stop the model: with update and RA = 0, a fixed-point load with update and RA = RT, and `lmw`, `lswi`, `lswx`
that would load a register they address with; for `lswx` with only a later register in the range the results are boundedly
undefined (R208, R262, R320, R330, R331, R620, R799; log 6, log 7). -/
def Obligations.InvalidFormsStop : Prop :=
  ∀ (s : State) (r rt ra rb : Reg) (d : BitVec 16) (ds : BitVec 14) (nb : BitVec 5),
    (ra = 0 ∨ ra = rt →
      exec (.lbzu rt d ra) s = .fault .invalidForm ∧ exec (.lbzux rt ra rb) s = .fault .invalidForm ∧
      exec (.lhzu rt d ra) s = .fault .invalidForm ∧ exec (.lhzux rt ra rb) s = .fault .invalidForm ∧
      exec (.lhau rt d ra) s = .fault .invalidForm ∧ exec (.lhaux rt ra rb) s = .fault .invalidForm ∧
      exec (.lwzu rt d ra) s = .fault .invalidForm ∧ exec (.lwzux rt ra rb) s = .fault .invalidForm ∧
      exec (.lwaux rt ra rb) s = .fault .invalidForm ∧ exec (.ldu rt ds ra) s = .fault .invalidForm ∧
      exec (.ldux rt ra rb) s = .fault .invalidForm) ∧
    (ra = 0 →
      exec (.stbu r d ra) s = .fault .invalidForm ∧ exec (.stbux r ra rb) s = .fault .invalidForm ∧
      exec (.sthu r d ra) s = .fault .invalidForm ∧ exec (.sthux r ra rb) s = .fault .invalidForm ∧
      exec (.stwu r d ra) s = .fault .invalidForm ∧ exec (.stwux r ra rb) s = .fault .invalidForm ∧
      exec (.stdu r ds ra) s = .fault .invalidForm ∧ exec (.stdux r ra rb) s = .fault .invalidForm ∧
      exec (.lfsu r d ra) s = .fault .invalidForm ∧ exec (.lfsux r ra rb) s = .fault .invalidForm ∧
      exec (.lfdu r d ra) s = .fault .invalidForm ∧ exec (.lfdux r ra rb) s = .fault .invalidForm ∧
      exec (.stfsu r d ra) s = .fault .invalidForm ∧ exec (.stfsux r ra rb) s = .fault .invalidForm ∧
      exec (.stfdu r d ra) s = .fault .invalidForm ∧ exec (.stfdux r ra rb) s = .fault .invalidForm) ∧
    (s.littleEndian = false →
      (r.toNat ≤ ra.toNat → exec (.lmw r d ra) s = .fault .invalidForm) ∧
      ((∃ k : Nat, k < regsFor (if nb = 0 then 32 else nb.toNat) ∧ regAfter r k = ra) →
        exec (.lswi r ra nb) s = .fault .invalidForm) ∧
      (r = ra ∨ r = rb → exec (.lswx r ra rb) s = .fault .invalidForm) ∧
      (r ≠ ra → r ≠ rb → (∃ k : Nat, k < regsFor (s.xer.toNat % 128) ∧ (regAfter r k = ra ∨ regAfter r k = rb)) →
        exec (.lswx r ra rb) s = .fault .boundedlyUndefined))

/-! ### Fixed-point arithmetic -/

/-- The adds and subtracts that leave CA alone: `addi` and `addis` with (RA|0) and no status; `add`, `subf`, `neg` with OV and SO
if OE and CR0 if Rc, as the exact sums of the mode's operands give them (R351, R352, R355 to R358, R370). -/
def Obligations.AddSubtractNegate : Prop :=
  ∀ (s : State) (rt ra rb : Reg) (si : BitVec 16) (oe rc : Bool),
    let a := if ra = 0 then 0 else s.readGpr ra
    let c : Changes := { gprs := [rt], cr := recordField rc, xer := sumBits false oe }
    completesWith (exec (.addi rt ra si) s) s { gprs := [rt] } (fun t => t.readGpr rt = a + BitVec.ofInt 64 si.toInt) ∧
    completesWith (exec (.addis rt ra si) s) s { gprs := [rt] } (fun t => t.readGpr rt = a + BitVec.ofInt 64 (si.toInt * 65536)) ∧
    completesWith (exec (.add rt ra rb oe rc) s) s c (sumResult rt (s.readGpr ra) (s.readGpr rb) false false oe rc s) ∧
    completesWith (exec (.subf rt ra rb oe rc) s) s c (sumResult rt (~~~s.readGpr ra) (s.readGpr rb) true false oe rc s) ∧
    completesWith (exec (.neg rt ra oe rc) s) s c (sumResult rt (~~~s.readGpr ra) 0 true false oe rc s)

/-- The adds and subtracts that set CA, and those that use it: the sum and the carry out of the mode's operands, with OV and SO
if OE and CR0 if Rc (R351, R352, R359 to R369). -/
def Obligations.CarryingAddSubtract : Prop :=
  ∀ (s : State) (rt ra rb : Reg) (si : BitVec 16) (oe rc : Bool),
    let a := s.readGpr ra
    let b := s.readGpr rb
    let imm := BitVec.ofInt 64 si.toInt
    let c : Changes := { gprs := [rt], cr := recordField rc, xer := sumBits true oe }
    completesWith (exec (.addic rt ra si) s) s { gprs := [rt], xer := [34] } (sumResult rt a imm false true false false s) ∧
    completesWith (exec (.addicRc rt ra si) s) s { gprs := [rt], cr := [0], xer := [34] }
      (sumResult rt a imm false true false true s) ∧
    completesWith (exec (.subfic rt ra si) s) s { gprs := [rt], xer := [34] } (sumResult rt (~~~a) imm true true false false s) ∧
    completesWith (exec (.addc rt ra rb oe rc) s) s c (sumResult rt a b false true oe rc s) ∧
    completesWith (exec (.subfc rt ra rb oe rc) s) s c (sumResult rt (~~~a) b true true oe rc s) ∧
    completesWith (exec (.adde rt ra rb oe rc) s) s c (sumResult rt a b s.ca true oe rc s) ∧
    completesWith (exec (.subfe rt ra rb oe rc) s) s c (sumResult rt (~~~a) b s.ca true oe rc s) ∧
    completesWith (exec (.addme rt ra oe rc) s) s c (sumResult rt a (-1) s.ca true oe rc s) ∧
    completesWith (exec (.subfme rt ra oe rc) s) s c (sumResult rt (~~~a) (-1) s.ca true oe rc s) ∧
    completesWith (exec (.addze rt ra oe rc) s) s c (sumResult rt a 0 s.ca true oe rc s) ∧
    completesWith (exec (.subfze rt ra oe rc) s) s c (sumResult rt (~~~a) 0 s.ca true oe rc s)

/-- The multiplies: the low-order or high-order half of the exact product, with overflow when the product is outside the operands'
width. Of `mulhw` and `mulhwu` RT[0:31] is undefined, and with it in 64-bit mode the comparison in CR0 (R371 to R377, R52). -/
def Obligations.Multiplies : Prop :=
  ∀ (s : State) (rt ra rb : Reg) (si : BitVec 16) (oe rc : Bool),
    let a := s.readGpr ra
    let b := s.readGpr rb
    let wa := a.setWidth 32
    let wb := b.setWidth 32
    let c : Changes := { gprs := [rt], cr := recordField rc, xer := overflowBits oe }
    let w : Changes := { gprs := [rt], cr := recordField rc }
    completesWith (exec (.mulli rt ra si) s) s { gprs := [rt] } (fun t => t.readGpr rt = a * BitVec.ofInt 64 si.toInt) ∧
    completesWith (exec (.mulld rt ra rb oe rc) s) s c (fun t => t.readGpr rt = a * b ∧
      recordsOverflow oe (decide ((t.readGpr rt).toInt ≠ a.toInt * b.toInt)) s t ∧ recordsIf rc (t.readGpr rt) s t) ∧
    completesWith (exec (.mullw rt ra rb oe rc) s) s c (fun t => (t.readGpr rt).toInt = wa.toInt * wb.toInt ∧
      recordsOverflow oe (decide (((t.readGpr rt).setWidth 32).toInt ≠ wa.toInt * wb.toInt)) s t ∧
        recordsIf rc (t.readGpr rt) s t) ∧
    resultInto (exec (.mulhd rt ra rb rc) s) rt rc (fun v => v.toInt = a.toInt * b.toInt / 2 ^ 64) s ∧
    resultInto (exec (.mulhdu rt ra rb rc) s) rt rc (fun v => v.toNat = a.toNat * b.toNat / 2 ^ 64) s ∧
    completesWith (exec (.mulhw rt ra rb rc) s) s w (fun t =>
      ((t.readGpr rt).setWidth 32).toInt = wa.toInt * wb.toInt / 2 ^ 32 ∧ recordsSummary rc t ∧
        (s.params.mode64 = false → recordsIf rc (t.readGpr rt) s t)) ∧
    completesWith (exec (.mulhwu rt ra rb rc) s) s w (fun t =>
      ((t.readGpr rt).setWidth 32).toNat = wa.toNat * wb.toNat / 2 ^ 32 ∧ recordsSummary rc t ∧
        (s.params.mode64 = false → recordsIf rc (t.readGpr rt) s t))

/-! ### Compare, trap, logical -/

/-- The divides: the quotient truncated toward zero; of the word forms in RT[32:63], RT[0:31] undefined. A division that has no
quotient leaves RT undefined, sets OV if OE, and completes (R378 to R381, R52). -/
def Obligations.Divides : Prop :=
  ∀ (s : State) (rt ra rb : Reg) (oe rc : Bool),
    let a := s.readGpr ra
    let b := s.readGpr rb
    let wa := a.setWidth 32
    let wb := b.setWidth 32
    let c : Changes := { gprs := [rt], cr := recordField rc, xer := overflowBits oe }
    let none := fun out : Out => completesWith out s c (fun t => recordsOverflow oe true s t ∧ recordsSummary rc t)
    let double := fun (out : Out) (P : DWord → Prop) => completesWith out s c (fun t =>
      P (t.readGpr rt) ∧ recordsOverflow oe false s t ∧ recordsIf rc (t.readGpr rt) s t)
    let word := fun (out : Out) (P : Word → Prop) => completesWith out s c (fun t =>
      P ((t.readGpr rt).setWidth 32) ∧ recordsOverflow oe false s t ∧ recordsSummary rc t ∧
        (s.params.mode64 = false → recordsIf rc (t.readGpr rt) s t))
    (b ≠ 0 → ¬ (a = BitVec.intMin 64 ∧ b = -1) →
      double (exec (.divd rt ra rb oe rc) s) (fun v => v.toInt = a.toInt.tdiv b.toInt)) ∧
    (b = 0 ∨ (a = BitVec.intMin 64 ∧ b = -1) → none (exec (.divd rt ra rb oe rc) s)) ∧
    (b ≠ 0 → double (exec (.divdu rt ra rb oe rc) s) (fun v => v.toNat = a.toNat / b.toNat)) ∧
    (b = 0 → none (exec (.divdu rt ra rb oe rc) s)) ∧
    (wb ≠ 0 → ¬ (wa = BitVec.intMin 32 ∧ wb = -1) →
      word (exec (.divw rt ra rb oe rc) s) (fun v => v.toInt = wa.toInt.tdiv wb.toInt)) ∧
    (wb = 0 ∨ (wa = BitVec.intMin 32 ∧ wb = -1) → none (exec (.divw rt ra rb oe rc) s)) ∧
    (wb ≠ 0 → word (exec (.divwu rt ra rb oe rc) s) (fun v => v.toNat = wa.toNat / wb.toNat)) ∧
    (wb = 0 → none (exec (.divwu rt ra rb oe rc) s))

/-- The compares: signed or unsigned, of doublewords or of low-order words as L says, in either mode (R390 to R394). -/
def Obligations.FixedPointCompares : Prop :=
  ∀ (s : State) (bf : FieldNum) (l : Bool) (ra rb : Reg) (i : BitVec 16),
    let signed := fun v : DWord => if l then v.toInt else (v.setWidth 32).toInt
    let unsigned := fun v : DWord => ((if l then v.toNat else v.toNat % 2 ^ 32 : Nat) : Int)
    comparesInto (exec (.cmpi bf l ra i) s) bf (signed (s.readGpr ra)) i.toInt s ∧
    comparesInto (exec (.cmp bf l ra rb) s) bf (signed (s.readGpr ra)) (signed (s.readGpr rb)) s ∧
    comparesInto (exec (.cmpli bf l ra i) s) bf (unsigned (s.readGpr ra)) (i.toNat : Int) s ∧
    comparesInto (exec (.cmpl bf l ra rb) s) bf (unsigned (s.readGpr ra)) (unsigned (s.readGpr rb)) s

/-- The traps: of doublewords, or of low-order words, signed and unsigned (R400 to R404, R797; log 4). -/
def Obligations.Traps : Prop :=
  ∀ (s : State) (sel : BitVec 5) (ra rb : Reg) (si : BitVec 16),
    let a := s.readGpr ra
    let b := s.readGpr rb
    let wa := a.setWidth 32
    let wb := b.setWidth 32
    trapsOn (exec (.td sel ra rb) s) sel a.toInt b.toInt a.toNat b.toNat s ∧
    trapsOn (exec (.tdi sel ra si) s) sel a.toInt si.toInt a.toNat (si.signExtend 64).toNat s ∧
    trapsOn (exec (.tw sel ra rb) s) sel wa.toInt wb.toInt wa.toNat wb.toNat s ∧
    trapsOn (exec (.twi sel ra si) s) sel wa.toInt si.toInt wa.toNat (si.signExtend 32).toNat s

/-- The logical instructions, bit by bit; the immediate forms take the immediate zero-extended or shifted left 16 bits (R421 to
R434). -/
def Obligations.LogicalInstructions : Prop :=
  ∀ (s : State) (ra rs rb : Reg) (ui : BitVec 16) (rc : Bool),
    let x := s.readGpr rs
    let y := s.readGpr rb
    let lo := BitVec.ofNat 64 ui.toNat
    let hi := BitVec.ofNat 64 (ui.toNat * 65536)
    combinesBits (exec (.andiRc ra rs ui) s) (fun a b => a && b) ra x lo true s ∧
    combinesBits (exec (.andisRc ra rs ui) s) (fun a b => a && b) ra x hi true s ∧
    combinesBits (exec (.ori ra rs ui) s) (fun a b => a || b) ra x lo false s ∧
    combinesBits (exec (.oris ra rs ui) s) (fun a b => a || b) ra x hi false s ∧
    combinesBits (exec (.xori ra rs ui) s) (fun a b => a != b) ra x lo false s ∧
    combinesBits (exec (.xoris ra rs ui) s) (fun a b => a != b) ra x hi false s ∧
    combinesBits (exec (.and ra rs rb rc) s) (fun a b => a && b) ra x y rc s ∧
    combinesBits (exec (.or ra rs rb rc) s) (fun a b => a || b) ra x y rc s ∧
    combinesBits (exec (.xor ra rs rb rc) s) (fun a b => a != b) ra x y rc s ∧
    combinesBits (exec (.nand ra rs rb rc) s) (fun a b => !(a && b)) ra x y rc s ∧
    combinesBits (exec (.nor ra rs rb rc) s) (fun a b => !(a || b)) ra x y rc s ∧
    combinesBits (exec (.eqv ra rs rb rc) s) (fun a b => a == b) ra x y rc s ∧
    combinesBits (exec (.andc ra rs rb rc) s) (fun a b => a && !b) ra x y rc s ∧
    combinesBits (exec (.orc ra rs rb rc) s) (fun a b => a || !b) ra x y rc s

/-- The sign extensions give the number of the low-order byte, halfword or word; the counts give the place of the first 1-bit, or
the width (R435 to R439). -/
def Obligations.ExtendSignAndCountZeros : Prop :=
  ∀ (s : State) (ra rs : Reg) (rc : Bool),
    let x := s.readGpr rs
    resultInto (exec (.extsb ra rs rc) s) ra rc (fun v => v.toInt = (x.setWidth 8).toInt) s ∧
    resultInto (exec (.extsh ra rs rc) s) ra rc (fun v => v.toInt = (x.setWidth 16).toInt) s ∧
    resultInto (exec (.extsw ra rs rc) s) ra rc (fun v => v.toInt = (x.setWidth 32).toInt) s ∧
    resultInto (exec (.cntlzd ra rs rc) s) ra rc (fun v => v.toNat ≤ 64 ∧ (∀ p : Nat, p < v.toNat → bitAt x p = false) ∧
      (v.toNat < 64 → bitAt x v.toNat = true)) s ∧
    resultInto (exec (.cntlzw ra rs rc) s) ra rc (fun v => v.toNat ≤ 32 ∧ (∀ p : Nat, p < v.toNat → bitAt x (32 + p) = false) ∧
      (v.toNat < 32 → bitAt x (32 + v.toNat) = true)) s

/-! ### Rotate and shift -/

/-- The rotates, bit by bit: which source bit, which mask, and what stands outside the mask (R446 to R454). -/
def Obligations.Rotates : Prop :=
  ∀ (s : State) (ra rs rb : Reg) (sh m : BitVec 6) (n mb me : BitVec 5) (rc : Bool),
    let r := (s.readGpr rb).toNat
    rotatesDouble (exec (.rldicl ra rs sh m rc) s) ra rs sh.toNat m.toNat 63 false rc s ∧
    rotatesDouble (exec (.rldicr ra rs sh m rc) s) ra rs sh.toNat 0 m.toNat false rc s ∧
    rotatesDouble (exec (.rldic ra rs sh m rc) s) ra rs sh.toNat m.toNat (63 - sh.toNat) false rc s ∧
    rotatesDouble (exec (.rldcl ra rs rb m rc) s) ra rs (r % 64) m.toNat 63 false rc s ∧
    rotatesDouble (exec (.rldcr ra rs rb m rc) s) ra rs (r % 64) 0 m.toNat false rc s ∧
    rotatesDouble (exec (.rldimi ra rs sh m rc) s) ra rs sh.toNat m.toNat (63 - sh.toNat) true rc s ∧
    rotatesWord (exec (.rlwinm ra rs n mb me rc) s) ra rs n.toNat mb.toNat me.toNat false rc s ∧
    rotatesWord (exec (.rlwnm ra rs rb mb me rc) s) ra rs (r % 32) mb.toNat me.toNat false rc s ∧
    rotatesWord (exec (.rlwimi ra rs n mb me rc) s) ra rs n.toNat mb.toNat me.toNat true rc s

/-- The logical shifts, as multiplication and division by a power of 2: seven bits of RB count for a doubleword, six for a word,
so a count of the width or more gives 0 (R461 to R464). -/
def Obligations.LogicalShifts : Prop :=
  ∀ (s : State) (ra rs rb : Reg) (rc : Bool),
    let x := (s.readGpr rs).toNat
    let d := (s.readGpr rb).toNat % 128
    let w := (s.readGpr rb).toNat % 64
    resultInto (exec (.sld ra rs rb rc) s) ra rc (fun v => v.toNat = x * 2 ^ d % 2 ^ 64) s ∧
    resultInto (exec (.srd ra rs rb rc) s) ra rc (fun v => v.toNat = x / 2 ^ d) s ∧
    resultInto (exec (.slw ra rs rb rc) s) ra rc (fun v => v.toNat = x % 2 ^ 32 * 2 ^ w % 2 ^ 32) s ∧
    resultInto (exec (.srw ra rs rb rc) s) ra rc (fun v => v.toNat = x % 2 ^ 32 / 2 ^ w) s

/-- The algebraic shifts right, as floor division by a power of 2; CA is 1 when a 1-bit is shifted out of a negative number
(R465 to R468). -/
def Obligations.AlgebraicShifts : Prop :=
  ∀ (s : State) (ra rs rb : Reg) (sh : BitVec 6) (n : BitVec 5) (rc : Bool),
    let x := (s.readGpr rs).toInt
    let y := ((s.readGpr rs).setWidth 32).toInt
    let d := (s.readGpr rb).toNat % 128
    let w := (s.readGpr rb).toNat % 64
    shiftsAlgebraic (exec (.sradi ra rs sh rc) s) ra rc (decide (x < 0 ∧ x % 2 ^ sh.toNat ≠ 0))
      (fun v => v.toInt = x / 2 ^ sh.toNat) s ∧
    shiftsAlgebraic (exec (.srawi ra rs n rc) s) ra rc (decide (y < 0 ∧ y % 2 ^ n.toNat ≠ 0))
      (fun v => v.toInt = y / 2 ^ n.toNat) s ∧
    shiftsAlgebraic (exec (.srad ra rs rb rc) s) ra rc (decide (x < 0 ∧ x % 2 ^ d ≠ 0)) (fun v => v.toInt = x / 2 ^ d) s ∧
    shiftsAlgebraic (exec (.sraw ra rs rb rc) s) ra rc (decide (y < 0 ∧ y % 2 ^ w ≠ 0)) (fun v => v.toInt = y / 2 ^ w) s

/-! ### Moves to and from special registers and CR -/

/-- `mtspr` and `mfspr` on XER, LR and CTR: the registers hold what is moved, XER in its defined bits; reading XER gives its
defined bits, and its reserved bits as the parameter says (R64, R501, R502). Any other number takes the Privileged Instruction
exception if its spr0 bit is 1, else Illegal Instruction (R500; log 16). -/
def Obligations.MoveSpecialRegisters : Prop :=
  ∀ (s : State) (r : Reg),
    completesWith (exec (.mtspr 8 r) s) s { lr := true } (fun t => t.lr = s.readGpr r) ∧
    completesWith (exec (.mtspr 9 r) s) s { ctr := true } (fun t => t.ctr = s.readGpr r) ∧
    completesWith (exec (.mtspr 1 r) s) s { xer := List.range 64 } (fun t =>
      (∀ p : Nat, p < 64 → (32 ≤ p ∧ p ≤ 34) ∨ 57 ≤ p → bitAt t.xer p = bitAt (s.readGpr r) p) ∧
        t.xer = (if s.params.reservedReads = .zero then s.readGpr r &&& 0xE000007F#64 else s.readGpr r)) ∧
    completesWith (exec (.mfspr r 8) s) s { gprs := [r] } (fun t => t.readGpr r = s.lr) ∧
    completesWith (exec (.mfspr r 9) s) s { gprs := [r] } (fun t => t.readGpr r = s.ctr) ∧
    completesWith (exec (.mfspr r 1) s) s { gprs := [r] } (fun t =>
      (∀ p : Nat, p < 64 → (32 ≤ p ∧ p ≤ 34) ∨ 57 ≤ p → bitAt (t.readGpr r) p = bitAt s.xer p) ∧
        (s.params.reservedReads = .zero → ∀ p : Nat, p < 32 ∨ (35 ≤ p ∧ p ≤ 56) → bitAt (t.readGpr r) p = false) ∧
        (s.params.reservedReads = .lastWritten → t.readGpr r = s.xer)) ∧
    ∀ spr : BitVec 10, spr ≠ 1 → spr ≠ 8 → spr ≠ 9 →
      (spr.toNat / 16 % 2 = 1 → raises (exec (.mtspr spr r) s) (.privilegedInstruction s.currentWord s.pc) s ∧
        raises (exec (.mfspr r spr) s) (.privilegedInstruction s.currentWord s.pc) s) ∧
      (spr.toNat / 16 % 2 = 0 → raises (exec (.mtspr spr r) s) (.illegalInstruction s.currentWord s.pc) s ∧
        raises (exec (.mfspr r spr) s) (.illegalInstruction s.currentWord s.pc) s)

/-- `mtcrf`, `mtocrf`, `mfcr`, `mfocrf` and `mcrxr`: the selected fields of CR and nothing else, all of CR, one field of it, and
XER[32:35], whose last bit is reserved and reads as RESERVED_READS says (log 22); with other than one field selected `mtocrf` leaves
CR, and `mfocrf` RT, undefined (R503 to R507). -/
def Obligations.MoveConditionRegister : Prop :=
  ∀ (s : State) (r : Reg) (fxm : BitVec 8) (bf : FieldNum),
    let moved := fun t : State => ∀ f : FieldNum,
      t.crField f = if bitAt fxm f.toNat then fld (s.readGpr r) (32 + 4 * f.toNat) 4 else s.crField f
    let every : List FieldNum := [0, 1, 2, 3, 4, 5, 6, 7]
    completesWith (exec (.mtcrf fxm r) s) s { cr := every } moved ∧
    completesWith (exec (.mfcr r) s) s { gprs := [r] } (fun t => (t.readGpr r).toNat = s.cr.toNat) ∧
    (s.params.hasOcrf = true → ∀ n : FieldNum, (∀ m : FieldNum, bitAt fxm m.toNat = decide (m = n)) →
      completesWith (exec (.mtocrf fxm r) s) s { cr := [n] } moved ∧
      completesWith (exec (.mfocrf r fxm) s) s { gprs := [r] } (fun t => fld (t.readGpr r) (32 + 4 * n.toNat) 4 = s.crField n)) ∧
    (s.params.hasOcrf = true → completesWith (exec (.mtocrf fxm r) s) s { cr := every } (fun _ => True) ∧
      completesWith (exec (.mfocrf r fxm) s) s { gprs := [r] } (fun _ => True)) ∧
    (s.params.hasMcrxr = true → completesWith (exec (.mcrxr bf) s) s { cr := [bf], xer := [32, 33, 34, 35] } (fun t =>
      bitAt (t.crField bf) 0 = s.so ∧ bitAt (t.crField bf) 1 = s.ov ∧ bitAt (t.crField bf) 2 = s.ca ∧
        (s.inv = true → bitAt (t.crField bf) 3 = bitAt s.xer 35) ∧
        bitAt (t.crField bf) 3 = (bitAt s.xer 35 && decide (s.params.reservedReads = .lastWritten)) ∧
        ∀ p : Nat, 32 ≤ p → p ≤ 35 → bitAt t.xer p = false))

/-- An instruction of a facility that is not present is illegal (R12, R790; log 4, log 25). -/
def Obligations.AbsentFacilitiesAreIllegal : Prop :=
  ∀ (s : State) (a b c d : Reg) (fxm : BitVec 8) (bf : FieldNum) (rc : Bool),
    let e := Exception.illegalInstruction s.currentWord s.pc
    (s.params.hasOcrf = false → raises (exec (.mtocrf fxm a) s) e s ∧ raises (exec (.mfocrf a fxm) s) e s) ∧
    (s.params.hasMcrxr = false → raises (exec (.mcrxr bf) s) e s) ∧
    (s.params.hasFpGp = false → raises (exec (.fsqrt a b rc) s) e s ∧ raises (exec (.fsqrts a b rc) s) e s) ∧
    (s.params.hasFpGfx = false → raises (exec (.fres a b rc) s) e s ∧ raises (exec (.frsqrte a b rc) s) e s ∧
      raises (exec (.fsel a b c d rc) s) e s)

/-! ### Floating-point storage access and moves -/

/-- The floating-point loads: FRT is the doubleword, or the word in double format; the update forms that are valid write RA too
(R620 to R629; when the operand may be accessed: log 23, log 30; the mark of a single-precision value: log 21). -/
def Obligations.FloatingPointLoads : Prop :=
  ∀ (s : State) (f ra rb : Reg) (d : BitVec 16),
    let ea := s.eaD ra d
    let ex := s.eaX ra rb
    loadsSingle (exec (.lfs f d ra) s) { fprs := [f] } f ea (fun _ => True) s ∧
    loadsSingle (exec (.lfsx f ra rb) s) { fprs := [f] } f ex (fun _ => True) s ∧
    loadsDouble (exec (.lfd f d ra) s) { fprs := [f] } f ea (fun _ => True) s ∧
    loadsDouble (exec (.lfdx f ra rb) s) { fprs := [f] } f ex (fun _ => True) s ∧
    (ra ≠ 0 →
      loadsSingle (exec (.lfsu f d ra) s) { fprs := [f], gprs := [ra] } f ea (fun t => t.readGpr ra = ea) s ∧
      loadsSingle (exec (.lfsux f ra rb) s) { fprs := [f], gprs := [ra] } f ex (fun t => t.readGpr ra = ex) s ∧
      loadsDouble (exec (.lfdu f d ra) s) { fprs := [f], gprs := [ra] } f ea (fun t => t.readGpr ra = ea) s ∧
      loadsDouble (exec (.lfdux f ra rb) s) { fprs := [f], gprs := [ra] } f ex (fun t => t.readGpr ra = ex) s)

/-- The floating-point stores: the doubleword, the word in single format, or for `stfiwx` the low-order word; where the stored
word is undefined the instruction still completes and changes those bytes alone (R630 to R640; log 5, log 21; when the operand may
be accessed: log 23, log 30). -/
def Obligations.FloatingPointStores : Prop :=
  ∀ (s : State) (f ra rb : Reg) (d : BitVec 16),
    let ea := s.eaD ra d
    let ex := s.eaX ra rb
    let x := s.readFpr f
    storesSingle (exec (.stfs f d ra) s) [] x ea (fun _ => True) s ∧ storesSingle (exec (.stfsx f ra rb) s) [] x ex (fun _ => True) s ∧
    storesFpr (exec (.stfd f d ra) s) [] x ea 8 (fun _ => True) s ∧ storesFpr (exec (.stfdx f ra rb) s) [] x ex 8 (fun _ => True) s ∧
    (ra ≠ 0 →
      storesSingle (exec (.stfsu f d ra) s) [ra] x ea (fun t => t.readGpr ra = ea) s ∧
      storesSingle (exec (.stfsux f ra rb) s) [ra] x ex (fun t => t.readGpr ra = ex) s ∧
      storesFpr (exec (.stfdu f d ra) s) [ra] x ea 8 (fun t => t.readGpr ra = ea) s ∧
      storesFpr (exec (.stfdux f ra rb) s) [ra] x ex 8 (fun t => t.readGpr ra = ex) s) ∧
    (s.isSingle f = false → storesFpr (exec (.stfiwx f ra rb) s) [] x ex 4 (fun _ => True) s) ∧
    (s.isSingle f = true → accessible .store ex 4 s →
      completesWith (exec (.stfiwx f ra rb) s) s { bytes := s.operandAddrs ex 4 } (fun _ => True))

/-- Loading a word in double format and storing it in single format gives the word back, for every word, NaNs included (R621,
R631). -/
def Obligations.SingleFormatRoundTrip : Prop :=
  ∀ w : Word, singleUndefined (doubleOf w) = false ∧ singleOf (doubleOf w) = w

/-- The moves and `fsel` copy a register, but for the sign bit the moves set; no status changes but CR field 1 if Rc (R644 to
R648, R709). A move also copies whether the value is a single-precision one, `fsel` clears that (R640; log 21); without its facility
`fsel` is illegal (log 25). -/
def Obligations.FloatingPointMovesAndSelect : Prop :=
  ∀ (s : State) (f a b c : Reg) (rc : Bool),
    let copies := fun (out : Out) (sign : Bool) (x : DWord) (single : Bool) =>
      completesWith out s { fprs := [f], cr := fpRecordField rc } (fun t =>
        bitAt (t.readFpr f) 0 = sign ∧ (∀ p : Nat, 0 < p → p < 64 → bitAt (t.readFpr f) p = bitAt x p) ∧ t.isSingle f = single ∧
          (rc = true → t.crField 1 = fld (summarized s.fpscr) 0 4))
    let y := s.readFpr b
    copies (exec (.fmr f b rc) s) (bitAt y 0) y (s.isSingle b) ∧ copies (exec (.fneg f b rc) s) (!bitAt y 0) y (s.isSingle b) ∧
    copies (exec (.fabs f b rc) s) false y (s.isSingle b) ∧ copies (exec (.fnabs f b rc) s) true y (s.isSingle b) ∧
    (s.params.hasFpGfx = true →
      let x := if isNaN (s.readFpr a) = false ∧ 0 ≤ scaledValue (s.readFpr a) then s.readFpr c else y
      copies (exec (.fsel f a c b rc) s) (bitAt x 0) x false) ∧
    (s.params.hasFpGfx = false → raises (exec (.fsel f a c b rc) s) (.illegalInstruction s.currentWord s.pc) s)

/-! ### Floating-point arithmetic -/

/-- Every finite pattern is the encoding of its sign and exact value (R532). -/
def Obligations.EncodingOfExactValues : Prop :=
  ∀ x : DWord, expOf x < 2047 → encode64 (signOf x) (magOf x).man (magOf x).exp = x

/-- Rounding a magnitude to a multiple of `2^q`: toward zero, to the nearest with ties to even, or toward an infinity; it is
inexact exactly when the magnitude is no such multiple (R559). -/
def Obligations.RoundingIsToTheNeighbourTheModeSelects : Prop :=
  ∀ (neg : Bool) (m : Nat) (e q : Int) (rn : BitVec 2), e ≤ q →
    let u := 2 ^ (q - e).toNat
    let r := roundTo ⟨neg, m, e, false⟩ q rn
    r.exp = q ∧ (r.inexact = true ↔ m % u ≠ 0) ∧ (r.inc = true ↔ m < r.man * u) ∧
    (r.inexact = false → r.man * u = m) ∧
    (rn = 0 → 2 * (r.man * u) ≤ 2 * m + u ∧ 2 * m ≤ 2 * (r.man * u) + u ∧
      (2 * (m % u) = u → r.man % 2 = 0)) ∧
    (rn = 1 → r.man * u ≤ m ∧ m < r.man * u + u) ∧
    (rn = 2 → if neg then r.man * u ≤ m ∧ m < r.man * u + u else m ≤ r.man * u ∧ r.man * u < m + u) ∧
    (rn = 3 → if neg then m ≤ r.man * u ∧ r.man * u < m + u else r.man * u ≤ m ∧ m < r.man * u + u)

/-- Every operation on finite doubles, in double or single precision, is its exact value rounded once: sum, difference, product,
quotient by a nonzero divisor, multiply-add (in the negative forms negated after rounding), square root, rounding to single
precision, and a doubleword integer. The result is the number of the format that the mode selects, ties to the even one; an exact
zero has the sign the spec gives it; FPRF, FR, FI, Inexact, Underflow and Overflow are as the value requires. With Underflow or
Overflow enabled and met, the result is the value with its exponent adjusted (R545, R557, R559, R560, R580, R581, R582, R586, R587,
R590, R650, R660, R670, R675, R705). -/
def Obligations.DoubleResultsAreCorrectlyRounded : Prop :=
  ∀ (fmt : Fmt) (f : Word) (a b c i : DWord) (v : Bool), expOf a < 2047 → expOf b < 2047 → expOf c < 2047 →
    let x := scaledValue a
    let y := scaledValue b
    let z := scaledValue c
    let unit : Nat := 2 ^ 1074
    let sign := fun p q : Bool => if p = q then p else decide (fld f 30 2 = 3)
    let op := fun o : ArithOp => fpArith o fmt f a b v
    rounded fmt f (sign (signOf a) (signOf b)) (x + y) 1 (op .add) ∧
    rounded fmt f (sign (signOf a) (!signOf b)) (x - y) 1 (op .sub) ∧
    rounded fmt f (signOf a != signOf b) (x * y) unit (op .mul) ∧
    (isZero b = false → rounded fmt f (signOf a != signOf b) (if y < 0 then -(x * unit) else x * unit) y.natAbs (op .div)) ∧
    (∀ sub : Bool, let o := fun neg : Bool => fpMulAdd fmt sub neg f a c b v
      rounded fmt f (sign (signOf a != signOf c) (signOf b != sub)) (if sub then x * z - y * unit else x * z + y * unit) unit
        (o false) ∧ negatedOut fmt (o false) (o true)) ∧
    (isZero b = false → signOf b = false → inFormat fmt b → rootRounded fmt f b (fpSqrt fmt f b v)) ∧
    rounded .single f (signOf b) y 1 (fpRoundSingle f b v) ∧ rounded .double f false (i.toInt * unit) 1 (fpFromInteger f i)

/-- The elementary operations in double precision: result and status delivered, and with an enabled exception the handler
invoked (R563, R568, R650, R651, R653, R655, R657; log 4, log 17). -/
def Obligations.DoubleArithmetic : Prop :=
  ∀ (s : State) (f a b : Reg) (rc : Bool), s.nonIeee = false →
    let o := fun op => fpArith op .double s.fpscr (s.readFpr a) (s.readFpr b) s.freeFr
    fpDelivers (exec (.fadd f a b rc) s) f rc false (o .add) s ∧
    fpDelivers (exec (.fsub f a b rc) s) f rc false (o .sub) s ∧
    fpDelivers (exec (.fmul f a b rc) s) f rc false (o .mul) s ∧
    fpDelivers (exec (.fdiv f a b rc) s) f rc false (o .div) s

/-- The elementary operations in single precision, on operands that the single format represents; on others FRT and the listed
status bits are undefined and the instruction completes (R568, R650, R652, R654, R656, R658; log 4, log 17, log 20). -/
def Obligations.SingleArithmetic : Prop :=
  ∀ (s : State) (f a b : Reg) (rc : Bool), s.nonIeee = false →
    let x := s.readFpr a
    let y := s.readFpr b
    let o := fun op => fpArith op .single s.fpscr x y s.freeFr
    (singleRepresentable x = true → singleRepresentable y = true →
      fpDelivers (exec (.fadds f a b rc) s) f rc true (o .add) s ∧
      fpDelivers (exec (.fsubs f a b rc) s) f rc true (o .sub) s ∧
      fpDelivers (exec (.fmuls f a b rc) s) f rc true (o .mul) s ∧
      fpDelivers (exec (.fdivs f a b rc) s) f rc true (o .div) s) ∧
    (singleRepresentable x = false ∨ singleRepresentable y = false →
      undefinedDelivers (exec (.fadds f a b rc) s) f rc (singleBits ++ [8]) s ∧
      undefinedDelivers (exec (.fsubs f a b rc) s) f rc (singleBits ++ [8]) s ∧
      undefinedDelivers (exec (.fmuls f a b rc) s) f rc (singleBits ++ [11]) s ∧
      undefinedDelivers (exec (.fdivs f a b rc) s) f rc (singleBits ++ [5, 9, 10]) s)

/-- The multiply-adds in double precision: one rounding of A times C plus or minus B, negated after rounding in the negative
forms (R568, R660, R661, R663, R665, R667; log 4, log 17). -/
def Obligations.DoubleMultiplyAdd : Prop :=
  ∀ (s : State) (f a c b : Reg) (rc : Bool), s.nonIeee = false →
    let o := fun sub neg => fpMulAdd .double sub neg s.fpscr (s.readFpr a) (s.readFpr c) (s.readFpr b) s.freeFr
    fpDelivers (exec (.fmadd f a c b rc) s) f rc false (o false false) s ∧
    fpDelivers (exec (.fmsub f a c b rc) s) f rc false (o true false) s ∧
    fpDelivers (exec (.fnmadd f a c b rc) s) f rc false (o false true) s ∧
    fpDelivers (exec (.fnmsub f a c b rc) s) f rc false (o true true) s

/-- The multiply-adds in single precision, on operands that the single format represents; on others FRT and the listed status
bits are undefined and the instruction completes (R568, R660, R662, R664, R666, R668; log 4, log 17, log 20). -/
def Obligations.SingleMultiplyAdd : Prop :=
  ∀ (s : State) (f a c b : Reg) (rc : Bool), s.nonIeee = false →
    let o := fun sub neg => fpMulAdd .single sub neg s.fpscr (s.readFpr a) (s.readFpr c) (s.readFpr b) s.freeFr
    (singleRepresentable (s.readFpr a) = true → singleRepresentable (s.readFpr c) = true →
      singleRepresentable (s.readFpr b) = true →
      fpDelivers (exec (.fmadds f a c b rc) s) f rc true (o false false) s ∧
      fpDelivers (exec (.fmsubs f a c b rc) s) f rc true (o true false) s ∧
      fpDelivers (exec (.fnmadds f a c b rc) s) f rc true (o false true) s ∧
      fpDelivers (exec (.fnmsubs f a c b rc) s) f rc true (o true true) s) ∧
    (singleRepresentable (s.readFpr a) = false ∨ singleRepresentable (s.readFpr c) = false ∨
      singleRepresentable (s.readFpr b) = false → ∀ i ∈ [Instr.fmadds f a c b rc, .fmsubs f a c b rc, .fnmadds f a c b rc,
      .fnmsubs f a c b rc], undefinedDelivers (exec i s) f rc (singleBits ++ [8, 11]) s)

/-- The operations on NaNs, infinities and zeros, in double and single precision. An Invalid Operation (a signaling NaN in any
place, infinity minus infinity, infinity over infinity, zero over zero, infinity times zero, the root of a negative number; in a
multiply-add as of the two separate operations; a conversion of a NaN or an infinity) delivers, enabled, no result and no FPRF;
disabled, the first NaN made quiet or the generated one, or the extreme integer. A Zero Divide delivers nothing or an infinity.
Without an exception a NaN passes through, and infinities and zeros give exact results (R535, R541 to R543, R545, R562, R570 to
R577, R650, R660, R670 to R674, R705, R707, R708). -/
def Obligations.InvalidOperationAndZeroDivide : Prop :=
  ∀ (fmt : Fmt) (f : Word) (a b c p q : DWord) (v : Bool),
    let op := fun o : ArithOp => fpArith o fmt f a b v
    let differ := signOf a != signOf b
    let qnan := quietNaN []
    let numbers := isNaN a = false ∧ isNaN b = false
    (∀ o : ArithOp, nanOperands f [a, b] (op o)) ∧
    (isInf a = true → isInf b = true → invalidOperation f [.vxidi] qnan (op .div) ∧
      (if differ then invalidOperation f [.vxisi] qnan (op .add) ∧ exactInfinity (signOf a) (op .sub)
       else exactInfinity (signOf a) (op .add) ∧ invalidOperation f [.vxisi] qnan (op .sub)) ∧ exactInfinity differ (op .mul)) ∧
    (numbers → isInf a = true → isInf b = false → exactInfinity (signOf a) (op .add) ∧ exactInfinity (signOf a) (op .sub) ∧
      exactInfinity differ (op .div)) ∧
    (numbers → isInf a = false → isInf b = true → exactInfinity (signOf b) (op .add) ∧ exactInfinity (!signOf b) (op .sub) ∧
      exactZero differ (op .div)) ∧
    (numbers → isInf a = true ∧ isZero b = true ∨ isZero a = true ∧ isInf b = true → invalidOperation f [.vximz] qnan (op .mul)) ∧
    (numbers → isInf a = true ∧ isZero b = false ∨ isZero a = false ∧ isInf b = true → exactInfinity differ (op .mul)) ∧
    (isZero a = true → isZero b = true → invalidOperation f [.vxzdz] qnan (op .div)) ∧
    (numbers → isInf a = false → isZero a = false → isZero b = true → zeroDivide f differ (op .div)) ∧
    (∀ sub neg : Bool,
      let o := fpMulAdd fmt sub neg f a c b v
      let times := isInf a && isZero c || isZero a && isInf c
      let endless := !isNaN a && !isNaN c && !times && (isInf a || isInf c)
      let ps := signOf a != signOf c
      let bs := signOf b != sub
      let nan := isNaN a || isNaN b || isNaN c
      let occ := (if isSNaN a || isSNaN b || isSNaN c then [FpExc.vxsnan] else []) ++ (if times then [.vximz] else []) ++
        (if endless && isInf b && ps != bs then [.vxisi] else [])
      (occ ≠ [] → invalidOperation f occ (quietNaN [a, b, c]) o) ∧
      (occ = [] → nan = true → exactly (quietNaN [a, b, c]) 0b10001#5 o) ∧
      (occ = [] → nan = false → endless = true → exactInfinity (ps != neg) o) ∧
      (occ = [] → nan = false → endless = false → isInf b = true → exactInfinity (bs != neg) o)) ∧
    (let o := fpSqrt fmt f b v
     nanOperands f [b] o ∧ (isNaN b = false → isZero b = false → signOf b = true → invalidOperation f [.vxsqrt] qnan o) ∧
      (isZero b = true → exactZero (signOf b) o) ∧ (isInf b = true → signOf b = false → exactInfinity false o)) ∧
    (let o := fpRoundSingle f b v
     (isSNaN b = true → invalidOperation f [.vxsnan] (quietNaN [b] &&& 0xFFFFFFFFE0000000#64) o) ∧
      (isQNaN b = true → exactly (b &&& 0xFFFFFFFFE0000000#64) 0b10001#5 o) ∧ (isInf b = true → exactInfinity (signOf b) o)) ∧
    (∀ (word : Bool) (rn : BitVec 2),
      let o := fpToInteger word rn f b p q
      (isSNaN b = true → invalidConversion word f [.vxsnan, .vxcvi] true o) ∧
      (isQNaN b = true → invalidConversion word f [.vxcvi] true o) ∧
      (isInf b = true → invalidConversion word f [.vxcvi] (signOf b) o)) ∧
    ∀ (raw w : DWord) (want : Bool × Bool),
      let r := fpReciprocal f b raw want w
      let o := fpRootReciprocal f b raw w
      let plain := fun (x : DWord) (class' : BitVec 5) (o : FpOut) => o.result = some x ∧ o.fprf = some class' ∧ o.occ = []
      (isSNaN b = true → invalidOperation f [.vxsnan] (quietNaN [b]) r ∧ invalidOperation f [.vxsnan] (quietNaN [b]) o) ∧
      (isQNaN b = true → plain b 0b10001#5 r ∧ plain b 0b10001#5 o) ∧
      (isZero b = true → zeroDivide f (signOf b) r ∧ zeroDivide f (signOf b) o) ∧
      (isInf b = true → plain (if signOf b then 0x8000000000000000#64 else 0) (if signOf b then 0b10010#5 else 0b00010#5) r ∧
        (signOf b = false → plain 0 0b00010#5 o)) ∧
      (isNaN b = false → isZero b = false → signOf b = true → invalidOperation f [.vxsqrt] qnan o)

/-- The square roots and the estimates, where their facility is present: result and status delivered; `fsqrts` and `fres` on an
operand that the single format does not represent complete with FRT and the listed status bits undefined (R568, R705 to R708;
log 4, log 17, log 19, log 20). Which status bits `fres` and `frsqrte` alter, and so which are listed for `fres` and that XX is not
among them, is presumed: the spec restores those lists from general knowledge (log 29). -/
def Obligations.SquareRootAndEstimates : Prop :=
  ∀ (s : State) (f b : Reg) (rc : Bool), s.nonIeee = false →
    let x := s.readFpr b
    let r := fpReciprocal s.fpscr x (Config.fresEstimate x s.fpscr s.draws) (Config.fresExceptions x s.fpscr s.draws) (s.free 0)
    let q := fpRootReciprocal s.fpscr x (Config.frsqrteEstimate x s.fpscr s.draws) (s.free 0)
    (s.params.hasFpGp = true →
      fpDelivers (exec (.fsqrt f b rc) s) f rc false (fpSqrt .double s.fpscr x s.freeFr) s ∧
      (singleRepresentable x = true → fpDelivers (exec (.fsqrts f b rc) s) f rc true (fpSqrt .single s.fpscr x s.freeFr) s) ∧
      (singleRepresentable x = false →
        undefinedDelivers (exec (.fsqrts f b rc) s) f rc [0, 6, 7, 13, 14, 15, 16, 17, 18, 19, 22] s)) ∧
    (s.params.hasFpGfx = true → fpDelivers (exec (.frsqrte f b rc) s) f rc false q s ∧
      (singleRepresentable x = true → fpDelivers (exec (.fres f b rc) s) f rc true r s) ∧
      (singleRepresentable x = false →
        undefinedDelivers (exec (.fres f b rc) s) f rc [0, 3, 4, 5, 7, 13, 14, 15, 16, 17, 18, 19] s))

/-- Whatever raw value an implementation gives, the reciprocal estimate of an operand whose reciprocal is in the single format's
range has the operand's sign and is within one part in 256; that of the reciprocal square root is within one part in 32 (R707,
R708). Outside that range, for an operand of the format, the estimate follows the Overflow and Underflow rules (R581, R582, R585,
R586): with Underflow enabled it is adjusted and reported unless it is of normal magnitude. That a value outside the bound is
replaced, and what is left open where the reciprocal is out of range, is the model's choice (log 19). -/
def Obligations.EstimatesAreWithinTheirBounds : Prop :=
  ∀ (f : Word) (b raw : DWord) (ox ux : Bool), isNaN b = false → isInf b = false → isZero b = false →
    let r := (reciprocalEstimate f b raw ox ux).1
    let occ := (reciprocalEstimate f b raw ox ux).2
    let good := fun k : Int => goodReciprocal ((magOf r).scaled k) (magOf b) = true
    let normal := minNormal .single ≤ (scaledValue r).natAbs
    (expOf b ≤ 1150 → 874 ≤ expOf b → signOf r = signOf b) ∧
    (895 ≤ expOf b → expOf b < 1149 ∨ (expOf b = 1149 ∧ fracOf b = 0) →
      good 0 ∧ occ = [] ∧ (bitAt f 26 = true → normal)) ∧
    (expOf b < 895 → 874 ≤ expOf b →
      (occ = [] ∧ good 0) ∨ (occ = [.ox] ∧ if bitAt f 25 then good 192 else r = beyond .single (fld f 30 2) (signOf b))) ∧
    (1149 < expOf b ∨ (expOf b = 1149 ∧ fracOf b ≠ 0) → expOf b ≤ 1150 →
      if bitAt f 26 then (occ = [] ∧ good 0 ∧ normal) ∨ (occ = [.ux] ∧ good (-192)) else good 0 ∧ (occ = [] ∨ occ = [.ux])) ∧
    (signOf b = false → goodRootReciprocal (magOf (rootReciprocalEstimate b raw)) (magOf b) = true ∧
      signOf (rootReciprocalEstimate b raw) = false)

/-! ### Rounding, conversion, compare, status -/

/-- `frsp`, the conversions to integers and `fcfid`: result and status delivered, and with an enabled exception the handler
invoked (R568, R670 to R675; log 4, log 17). -/
def Obligations.RoundAndConvert : Prop :=
  ∀ (s : State) (f b : Reg) (rc : Bool), s.nonIeee = false →
    let x := s.readFpr b
    let o := fun word rn => fpToInteger word rn s.fpscr x (s.free 0) (s.free 1)
    fpDelivers (exec (.frsp f b rc) s) f rc true (fpRoundSingle s.fpscr x s.freeFr) s ∧
    fpDelivers (exec (.fctid f b rc) s) f rc false (o false (rnOf s.fpscr)) s ∧
    fpDelivers (exec (.fctidz f b rc) s) f rc false (o false 1) s ∧
    fpDelivers (exec (.fctiw f b rc) s) f rc false (o true (rnOf s.fpscr)) s ∧
    fpDelivers (exec (.fctiwz f b rc) s) f rc false (o true 1) s ∧
    fpDelivers (exec (.fcfid f b rc) s) f rc false (fpFromInteger s.fpscr x) s

/-- Conversion of a finite value to a signed doubleword or word, in the rounding mode or toward zero: a value whose rounded integer
is in range gives that integer, is inexact exactly when it differs from it, and FR says whether the magnitude was incremented; one
out of range is an Invalid Operation VXCVI, with no result when that is enabled and else the extreme integer of its sign (R557,
R559, R571, R572, R612, R671 to R674). -/
def Obligations.ConversionTowardZero : Prop :=
  ∀ (word : Bool) (rn : BitVec 2) (f : Word) (x p q : DWord), expOf x < 2047 →
    let limit : Int := if word then 2 ^ 31 else 2 ^ 63
    let unit : Nat := 2 ^ 1074
    let n := integerOf rn (scaledValue x)
    let o := fpToInteger word rn f x p q
    (-limit ≤ n → n < limit → deliversInteger word n o ∧ (o.fi = true ↔ n * unit ≠ scaledValue x) ∧
      (o.fr = true ↔ (scaledValue x).natAbs < n.natAbs * unit) ∧ o.occ = (if n * unit = scaledValue x then [] else [.xx])) ∧
    (n < -limit ∨ limit ≤ n → invalidConversion word f [.vxcvi] (signOf x) o)

/-- `fcmpu` and `fcmpo`: the comparison in CR field BF and in FPCC; VXSNAN and VXVC are set exactly for their causes and sticky, FX
is set when one of them goes from 0 to 1, FEX and VX are the ORs; no other bit of the FPSCR changes. With the invalid operation
enabled the handler is invoked (R66 to R69, R568, R689 to R691; log 4, log 17). -/
def Obligations.FloatingPointCompares : Prop :=
  ∀ (s : State) (bf : FieldNum) (a b : Reg), s.nonIeee = false →
    let x := s.readFpr a
    let y := s.readFpr b
    let written := fun (occ : List FpExc) (t : State) => t.crField bf = fpCompare x y ∧ fld t.fpscr 16 4 = fpCompare x y ∧
      recordsExceptions occ s.fpscr t.fpscr
    let c : Changes := { cr := [bf], fpscr := [0, 1, 2, 7, 12, 16, 17, 18, 19] }
    let both := fun (out : Out) (occ : List FpExc) =>
      (untrapped occ s → completesWith out s c (written occ)) ∧
      (¬ untrapped occ s → completes out (fun t => t.outcome = some (.fpEnabled s.pc) ∧ t.pc = s.pc ∧ written occ t ∧
        Leaves c s { t with outcome := s.outcome }))
    both (exec (.fcmpu bf a b) s) (if isSNaN x || isSNaN y then [.vxsnan] else []) ∧
    both (exec (.fcmpo bf a b) s)
      (if isSNaN x || isSNaN y then (if bitAt s.fpscr 24 then [.vxsnan] else [.vxsnan, .vxvc])
       else if isNaN x || isNaN y then [.vxvc] else [])

/-- A comparison of numbers is that of their exact values, zeros being equal and infinities beyond every number; one with a NaN is
unordered (R689, R535). -/
def Obligations.ComparisonIsOfExactValues : Prop :=
  ∀ a b : DWord, (isNaN a = true ∨ isNaN b = true → fpCompare a b = 0b0001#4) ∧
    (isNaN a = false → isNaN b = false →
      (scaledValue a < scaledValue b → fpCompare a b = 0b1000#4) ∧ (scaledValue b < scaledValue a → fpCompare a b = 0b0100#4) ∧
      (scaledValue a = scaledValue b → fpCompare a b = 0b0010#4))

/-- `mffs`, `mcrfs` and `mtfsb0`, which invoke no handler: FRT[32:63] is the FPSCR; a field of it goes to CR and its exception
bits are cleared; a bit is cleared, but for FEX and VX, and no other bit changes but FEX and VX, which stay the ORs (R68, R69, R696,
R697, R700; log 21, log 22). -/
def Obligations.ReadAndClearStatus : Prop :=
  ∀ (s : State) (f : Reg) (bf bfa : FieldNum) (bt : BitNum) (rc : Bool),
    completesWith (exec (.mffs f rc) s) s { fprs := [f], cr := fpRecordField rc } (fun t =>
      fld (t.readFpr f) 32 32 = s.readFpscr ∧ t.isSingle f = false ∧ (rc = true → t.crField 1 = fld (summarized s.fpscr) 0 4)) ∧
    completesWith (exec (.mcrfs bf bfa) s) s { cr := [bf], fpscr := List.range 32 } (fun t =>
      t.crField bf = fld s.readFpscr (4 * bfa.toNat) 4 ∧ summariesHold t.fpscr ∧
        ∀ p : Nat, p < 32 → p ≠ 1 → p ≠ 2 → bitAt t.fpscr p =
          if p / 4 = bfa.toNat ∧ p ∈ [0, 3, 4, 5, 6, 7, 8, 9, 10, 11, 12, 21, 22, 23] then false else bitAt s.fpscr p) ∧
    (s.inv = true → completesWith (exec (.mtfsb0 bt rc) s) s { cr := fpRecordField rc, fpscr := [1, 2, bt.toNat] } (fun t =>
      (bt ≠ 1 → bt ≠ 2 → bitAt t.fpscr bt.toNat = false) ∧ summariesHold t.fpscr ∧
        (rc = true → t.crField 1 = fld t.fpscr 0 4)))

/-- `mtfsfi`, `mtfsf` and `mtfsb1`: the selected bits of FPSCR, but for FEX and VX, which stay the ORs; NI where it is implemented
(log 18); the reserved bits as RESERVED_READS says (log 22). `mtfsb1` sets FX when an exception bit changes from 0 to 1. Where no
exception bit comes to stand with its enable bit that did not before the instruction completes; else the handler is invoked (R695,
R698, R699, R701, R64, R67, R73; log 4, log 17). -/
def Obligations.WriteStatus : Prop :=
  ∀ (s : State) (bf : FieldNum) (u : BitVec 4) (flm : BitVec 8) (b : Reg) (bt : BitNum) (rc : Bool), s.inv = true →
    let pairs := [(3, 25), (4, 26), (5, 27), (6, 28), (7, 24), (8, 24), (9, 24), (10, 24), (11, 24), (12, 24), (21, 24), (22, 24),
      (23, 24)]
    let quiet := fun new : Word => s.params.fe = .ignore ∨ ∀ p ∈ pairs, bitAt new p.1 = true → bitAt new p.2 = true →
      bitAt s.fpscr p.1 = true ∧ bitAt s.fpscr p.2 = true
    let writes := fun (out : Out) (new : Word) =>
      let right := fun t : State => summariesHold t.fpscr ∧ (rc = true → t.crField 1 = fld t.fpscr 0 4) ∧
        (∀ p : Nat, p < 32 → p ≠ 1 → p ≠ 2 → p ≠ 20 → p ≠ 29 → bitAt t.fpscr p = bitAt new p) ∧
        (s.params.hasNi = true → bitAt t.fpscr 29 = bitAt new 29) ∧
        ∀ p ∈ [20, 29], (p = 29 → s.params.hasNi = false) →
          bitAt t.fpscr p = (bitAt new p && decide (s.params.reservedReads = .lastWritten))
      let c : Changes := { cr := fpRecordField rc, fpscr := List.range 32 }
      (quiet new → completesWith out s c right) ∧
      (¬ quiet new → completes out (fun t => t.outcome = some (.fpEnabled s.pc) ∧ t.pc = s.pc ∧ right t ∧
        Leaves c s { t with outcome := s.outcome }))
    writes (exec (.mtfsfi bf u rc) s) (setFld s.fpscr (4 * bf.toNat) u) ∧
    (∀ new : Word, (∀ p : Nat, p < 32 → bitAt new p =
        if bitAt flm (p / 4) then bitAt (s.readFpr b) (32 + p) else bitAt s.fpscr p) →
      writes (exec (.mtfsf flm b rc) s) new) ∧
    (∀ new : Word, (∀ p : Nat, p < 32 → bitAt new p =
        (bitAt s.fpscr p || decide (p = bt.toNat) ||
          (decide (p = 0) && [3, 4, 5, 6, 7, 8, 9, 10, 11, 12, 21, 22, 23].contains bt.toNat && !bitAt s.fpscr bt.toNat))) →
      bt ≠ 1 → bt ≠ 2 → writes (exec (.mtfsb1 bt rc) s) new) ∧
    (bt = 1 ∨ bt = 2 → completesWith (exec (.mtfsb1 bt rc) s) s { cr := fpRecordField rc } (fun t =>
      rc = true → t.crField 1 = fld s.fpscr 0 4))

/-- With non-IEEE mode implemented and on, the model refuses the computational instructions, whose results Book IV gives (R73;
log 18). -/
def Obligations.NonIeeeModeIsRefused : Prop :=
  ∀ (s : State) (f a b c : Reg) (bf : FieldNum) (rc : Bool), s.params.hasNi = true → bitAt s.fpscr 29 = true →
    (∀ i ∈ [Instr.fadd f a b rc, .fadds f a b rc, .fsub f a b rc, .fsubs f a b rc, .fmul f a b rc, .fmuls f a b rc,
      .fdiv f a b rc, .fdivs f a b rc, .fmadd f a c b rc, .fmadds f a c b rc, .fmsub f a c b rc, .fmsubs f a c b rc,
      .fnmadd f a c b rc, .fnmadds f a c b rc, .fnmsub f a c b rc, .fnmsubs f a c b rc, .frsp f b rc, .fctid f b rc,
      .fctidz f b rc, .fctiw f b rc, .fctiwz f b rc, .fcfid f b rc, .fcmpu bf a b, .fcmpo bf a b],
      exec i s = .refused .nonIeeeMode) ∧
    (s.params.hasFpGp = true → exec (.fsqrt f b rc) s = .refused .nonIeeeMode ∧ exec (.fsqrts f b rc) s = .refused .nonIeeeMode) ∧
    (s.params.hasFpGfx = true → exec (.fres f b rc) s = .refused .nonIeeeMode ∧ exec (.frsqrte f b rc) s = .refused .nonIeeeMode)

/-! ### Books II and III -/

/-- The synchronization and cache touch instructions, which D20 lets a model of one processor treat as no-ops, only go on to the next
instruction (R836; log 10). -/
def Obligations.SynchronizationAndCacheHints : Prop :=
  ∀ (s : State), ∀ i ∈ [Instr.sync, .isync, .eieio, .dcbt, .dcbtst], completesWith (exec i s) s {} (fun _ => True)

/-- `mfmsr`, `mfsr` and `mfsrin` take the Privileged Instruction exception (R794; log 11); the other instructions of Books II and
III, whose effect no source gives, are refused by name (R204; log 12). -/
def Obligations.OtherBooksPrivilegedOrRefused : Prop :=
  ∀ s : State, (∀ i ∈ [Instr.mfmsr, .mfsr, .mfsrin], raises (exec i s) (.privilegedInstruction s.currentWord s.pc) s) ∧
    ∀ p ∈ [(Instr.rfid, "rfid"), (.lwarx, "lwarx"), (.ldarx, "ldarx"), (.stwcxRc, "stwcx."), (.stdcxRc, "stdcx."),
      (.icbi, "icbi"), (.dcbst, "dcbst"), (.dcbf, "dcbf"),
      (.dcbz, "dcbz"), (.mtmsr, "mtmsr"), (.mtmsrd, "mtmsrd"), (.mtsr, "mtsr"), (.mtsrin, "mtsrin"), (.tlbie, "tlbie"),
      (.tlbia, "tlbia"), (.tlbsync, "tlbsync"), (.eciwx, "eciwx"), (.ecowx, "ecowx"), (.mftb, "mftb"), (.slbmte, "slbmte"),
      (.slbie, "slbie"), (.slbia, "slbia"), (.slbmfev, "slbmfev"), (.slbmfee, "slbmfee")],
      exec p.1 s = .refused (.otherBook p.2)

end
end

