-- ==== Sys2Proof/Laws/Bits.lean ====
section
/-! SUPPORT. Bits and fields: reading a bit or a field after a bit or a field is replaced. -/
namespace Sys2Proof.Machine

/-- A bit in the source's numbering, counted from the right. -/
theorem bitAt_eq_getLsbD {w : Nat} (v : BitVec w) (p : Nat) (h : p < w) : bitAt v p = v.getLsbD (w - 1 - p) := by
  simp [bitAt, BitVec.getMsbD, h]

/-- There are no bits past the last. -/
theorem bitAt_ge {w : Nat} (v : BitVec w) (p : Nat) (h : w ≤ p) : bitAt v p = false := by
  have : ¬ p < w := by omega
  simp [bitAt, BitVec.getMsbD, this]

/-- Values with the same bits are equal. -/
theorem eq_of_bitAt {w : Nat} (a b : BitVec w) (h : ∀ p, p < w → bitAt a p = bitAt b p) : a = b := by
  apply BitVec.eq_of_getLsbD_eq
  intro i hi
  have h1 := h (w - 1 - i) (by omega)
  rw [bitAt_eq_getLsbD _ _ (by omega), bitAt_eq_getLsbD _ _ (by omega)] at h1
  have h2 : w - 1 - (w - 1 - i) = i := by omega
  rwa [h2] at h1

/-- A bit of a field. -/
theorem bitAt_fld {w : Nat} (v : BitVec w) (p n q : Nat) (hw : p + n ≤ w) (hq : q < n) :
    bitAt (fld v p n) q = bitAt v (p + q) := by
  rw [bitAt_eq_getLsbD _ _ hq, bitAt_eq_getLsbD _ _ (by omega)]
  simp only [fld, BitVec.getLsbD_extractLsb']
  have h1 : n - 1 - q < n := by omega
  have h2 : w - p - n + (n - 1 - q) = w - 1 - (p + q) := by omega
  simp [h1, h2]

/-- A bit of the mask with `n` 1-bits from bit `p`. -/
theorem bitAt_ones (w p n q : Nat) (hw : p + n ≤ w) (hq : q < w) : bitAt (ones w p n) q = decide (p ≤ q ∧ q < p + n) := by
  rw [bitAt_eq_getLsbD _ _ hq]
  simp only [ones, BitVec.getLsbD_shiftLeft, BitVec.getLsbD_setWidth, BitVec.getLsbD_allOnes]
  rw [Bool.eq_iff_iff]
  simp only [Bool.and_eq_true, Bool.not_eq_true', decide_eq_true_eq, decide_eq_false_iff_not]
  omega

theorem bitAt_and {w : Nat} (a b : BitVec w) (p : Nat) : bitAt (a &&& b) p = (bitAt a p && bitAt b p) := by
  simp [bitAt]

theorem bitAt_or {w : Nat} (a b : BitVec w) (p : Nat) : bitAt (a ||| b) p = (bitAt a p || bitAt b p) := by
  simp [bitAt]

theorem bitAt_xor {w : Nat} (a b : BitVec w) (p : Nat) : bitAt (a ^^^ b) p = (bitAt a p ^^ bitAt b p) := by
  simp [bitAt]

theorem bitAt_not {w : Nat} (a : BitVec w) (p : Nat) (h : p < w) : bitAt (~~~a) p = !bitAt a p := by
  rw [bitAt_eq_getLsbD _ _ h, bitAt_eq_getLsbD _ _ h]
  have : w - 1 - p < w := by omega
  simp [this]

theorem bitAt_zero (w p : Nat) : bitAt (0#w) p = false := by
  simp [bitAt]

/-- Every bit after a field is replaced. -/
theorem bitAt_setFld {w n : Nat} (v : BitVec w) (p : Nat) (x : BitVec n) (q : Nat) (hw : p + n ≤ w) (hq : q < w) :
    bitAt (setFld v p x) q = if p ≤ q ∧ q < p + n then bitAt x (q - p) else bitAt v q := by
  have hs : bitAt (x.setWidth w <<< (w - p - n)) q = if p ≤ q ∧ q < p + n then bitAt x (q - p) else false := by
    rw [bitAt_eq_getLsbD _ _ hq]
    simp only [BitVec.getLsbD_shiftLeft, BitVec.getLsbD_setWidth]
    split
    · next h =>
      rw [bitAt_eq_getLsbD _ _ (by omega)]
      have h1 : w - 1 - q < w := by omega
      have h2 : ¬ (w - 1 - q < w - p - n) := by omega
      have h3 : w - 1 - q - (w - p - n) = n - 1 - (q - p) := by omega
      have h4 : n - 1 - (q - p) < w := by omega
      simp [h1, h2, h3, h4]
    · next h =>
      by_cases h2 : w - 1 - q < w - p - n
      · simp [h2]
      · have h3 : n ≤ w - 1 - q - (w - p - n) := by omega
        simp [BitVec.getLsbD_of_ge _ _ h3]
  simp only [setFld, bitAt_or, bitAt_and, bitAt_not _ _ hq, bitAt_ones w p n q hw hq, hs]
  by_cases h : p ≤ q ∧ q < p + n <;> simp [h]

/-- Every bit after one bit is replaced. -/
theorem bitAt_setBitAt {w : Nat} (v : BitVec w) (p : Nat) (b : Bool) (q : Nat) (hp : p < w) (hq : q < w) :
    bitAt (setBitAt v p b) q = if q = p then b else bitAt v q := by
  rw [setBitAt, bitAt_setFld v p _ q (by omega) hq]
  by_cases h : q = p
  · subst h
    simp [bitAt]
  · have : ¬ (p ≤ q ∧ q < p + 1) := by omega
    rw [if_neg this, if_neg h]

/-- The replaced bit itself. -/
theorem bitAt_setBitAt_self {w : Nat} (v : BitVec w) (p : Nat) (b : Bool) (hp : p < w) : bitAt (setBitAt v p b) p = b := by
  simp [bitAt_setBitAt v p b p hp hp]

/-- The replaced field itself. -/
theorem fld_setFld_self {w n : Nat} (v : BitVec w) (p : Nat) (x : BitVec n) (hw : p + n ≤ w) : fld (setFld v p x) p n = x := by
  apply eq_of_bitAt
  intro q hq
  rw [bitAt_fld _ _ _ _ hw hq, bitAt_setFld v p x _ hw (by omega)]
  have h1 : p ≤ p + q ∧ p + q < p + n := by omega
  have h2 : p + q - p = q := by omega
  simp [h1, h2]

/-- A field apart from the replaced one. -/
theorem fld_setFld_other {w n : Nat} (v : BitVec w) (p : Nat) (x : BitVec n) (q k : Nat) (hw : p + n ≤ w) (hq : q + k ≤ w)
    (hd : q + k ≤ p ∨ p + n ≤ q) : fld (setFld v p x) q k = fld v q k := by
  apply eq_of_bitAt
  intro i hi
  rw [bitAt_fld _ _ _ _ hq hi, bitAt_fld _ _ _ _ hq hi, bitAt_setFld v p x _ hw (by omega)]
  have h1 : ¬ (p ≤ q + i ∧ q + i < p + n) := by omega
  simp [h1]

end Sys2Proof.Machine
end

