-- ==== Sys2Proof/Laws/Encode.lean ====
section
/-! SUPPORT. The fields of the encoder's formats as the decoder pulls them out, the bits a row's mask keeps of a format, and
what decoding does with a word a row covers. -/
namespace Sys2Proof
open Machine (fld bitAt bit)

set_option Elab.async false

theorem encI_fld_6_24 (op : BitVec 6) (li : BitVec 24) (aa : Bool) (lk : Bool) : fld (encI op li aa lk) 6 24 = li := by
  apply BitVec.eq_of_getLsbD_eq
  intro i hi
  simp only [fld, encI, BitVec.getLsbD_extractLsb', BitVec.getLsbD_append]
  interval_cases i <;> simp

theorem encI_bit_30 (op : BitVec 6) (li : BitVec 24) (aa : Bool) (lk : Bool) : bitAt (encI op li aa lk) 30 = aa := by
  simp only [bitAt, encI, BitVec.getMsbD, BitVec.getLsbD_append]
  simp [bit]

theorem encI_bit_31 (op : BitVec 6) (li : BitVec 24) (aa : Bool) (lk : Bool) : bitAt (encI op li aa lk) 31 = lk := by
  simp only [bitAt, encI, BitVec.getMsbD, BitVec.getLsbD_append]
  simp [bit]

theorem encB_fld_6_5 (op : BitVec 6) (bo : BitVec 5) (bi : BitVec 5) (bd : BitVec 14) (aa : Bool) (lk : Bool) : fld (encB op bo bi bd aa lk) 6 5 = bo := by
  apply BitVec.eq_of_getLsbD_eq
  intro i hi
  simp only [fld, encB, BitVec.getLsbD_extractLsb', BitVec.getLsbD_append]
  interval_cases i <;> simp

theorem encB_fld_11_5 (op : BitVec 6) (bo : BitVec 5) (bi : BitVec 5) (bd : BitVec 14) (aa : Bool) (lk : Bool) : fld (encB op bo bi bd aa lk) 11 5 = bi := by
  apply BitVec.eq_of_getLsbD_eq
  intro i hi
  simp only [fld, encB, BitVec.getLsbD_extractLsb', BitVec.getLsbD_append]
  interval_cases i <;> simp

theorem encB_fld_16_14 (op : BitVec 6) (bo : BitVec 5) (bi : BitVec 5) (bd : BitVec 14) (aa : Bool) (lk : Bool) : fld (encB op bo bi bd aa lk) 16 14 = bd := by
  apply BitVec.eq_of_getLsbD_eq
  intro i hi
  simp only [fld, encB, BitVec.getLsbD_extractLsb', BitVec.getLsbD_append]
  interval_cases i <;> simp

theorem encB_bit_30 (op : BitVec 6) (bo : BitVec 5) (bi : BitVec 5) (bd : BitVec 14) (aa : Bool) (lk : Bool) : bitAt (encB op bo bi bd aa lk) 30 = aa := by
  simp only [bitAt, encB, BitVec.getMsbD, BitVec.getLsbD_append]
  simp [bit]

theorem encB_bit_31 (op : BitVec 6) (bo : BitVec 5) (bi : BitVec 5) (bd : BitVec 14) (aa : Bool) (lk : Bool) : bitAt (encB op bo bi bd aa lk) 31 = lk := by
  simp only [bitAt, encB, BitVec.getMsbD, BitVec.getLsbD_append]
  simp [bit]

theorem encSC_fld_20_7 (op : BitVec 6) (lev : BitVec 7) (one : Bool) : fld (encSC op lev one) 20 7 = lev := by
  apply BitVec.eq_of_getLsbD_eq
  intro i hi
  simp only [fld, encSC, BitVec.getLsbD_extractLsb', BitVec.getLsbD_append]
  interval_cases i <;> simp

theorem encSC_bit_30 (op : BitVec 6) (lev : BitVec 7) (one : Bool) : bitAt (encSC op lev one) 30 = one := by
  simp only [bitAt, encSC, BitVec.getMsbD, BitVec.getLsbD_append]
  simp [bit]

theorem encD_fld_6_5 (op : BitVec 6) (a : BitVec 5) (b : BitVec 5) (d : BitVec 16) : fld (encD op a b d) 6 5 = a := by
  apply BitVec.eq_of_getLsbD_eq
  intro i hi
  simp only [fld, encD, BitVec.getLsbD_extractLsb', BitVec.getLsbD_append]
  interval_cases i <;> simp

theorem encD_fld_6_3 (op : BitVec 6) (a : BitVec 5) (b : BitVec 5) (d : BitVec 16) : fld (encD op a b d) 6 3 = fld a 0 3 := by
  apply BitVec.eq_of_getLsbD_eq
  intro i hi
  simp only [fld, encD, BitVec.getLsbD_extractLsb', BitVec.getLsbD_append]
  interval_cases i <;> simp

theorem encD_bit_10 (op : BitVec 6) (a : BitVec 5) (b : BitVec 5) (d : BitVec 16) : bitAt (encD op a b d) 10 = bitAt a 4 := by
  simp only [bitAt, encD, BitVec.getMsbD, BitVec.getLsbD_append]
  simp

theorem encD_fld_11_5 (op : BitVec 6) (a : BitVec 5) (b : BitVec 5) (d : BitVec 16) : fld (encD op a b d) 11 5 = b := by
  apply BitVec.eq_of_getLsbD_eq
  intro i hi
  simp only [fld, encD, BitVec.getLsbD_extractLsb', BitVec.getLsbD_append]
  interval_cases i <;> simp

theorem encD_fld_16_16 (op : BitVec 6) (a : BitVec 5) (b : BitVec 5) (d : BitVec 16) : fld (encD op a b d) 16 16 = d := by
  apply BitVec.eq_of_getLsbD_eq
  intro i hi
  simp only [fld, encD, BitVec.getLsbD_extractLsb', BitVec.getLsbD_append]
  interval_cases i <;> simp

theorem encDS_fld_6_5 (op : BitVec 6) (a : BitVec 5) (b : BitVec 5) (ds : BitVec 14) (xo : BitVec 2) : fld (encDS op a b ds xo) 6 5 = a := by
  apply BitVec.eq_of_getLsbD_eq
  intro i hi
  simp only [fld, encDS, BitVec.getLsbD_extractLsb', BitVec.getLsbD_append]
  interval_cases i <;> simp

theorem encDS_fld_11_5 (op : BitVec 6) (a : BitVec 5) (b : BitVec 5) (ds : BitVec 14) (xo : BitVec 2) : fld (encDS op a b ds xo) 11 5 = b := by
  apply BitVec.eq_of_getLsbD_eq
  intro i hi
  simp only [fld, encDS, BitVec.getLsbD_extractLsb', BitVec.getLsbD_append]
  interval_cases i <;> simp

theorem encDS_fld_16_14 (op : BitVec 6) (a : BitVec 5) (b : BitVec 5) (ds : BitVec 14) (xo : BitVec 2) : fld (encDS op a b ds xo) 16 14 = ds := by
  apply BitVec.eq_of_getLsbD_eq
  intro i hi
  simp only [fld, encDS, BitVec.getLsbD_extractLsb', BitVec.getLsbD_append]
  interval_cases i <;> simp

theorem encX_fld_6_5 (op : BitVec 6) (a : BitVec 5) (b : BitVec 5) (c : BitVec 5) (xo : BitVec 10) (rc : Bool) : fld (encX op a b c xo rc) 6 5 = a := by
  apply BitVec.eq_of_getLsbD_eq
  intro i hi
  simp only [fld, encX, BitVec.getLsbD_extractLsb', BitVec.getLsbD_append]
  interval_cases i <;> simp

theorem encX_fld_6_3 (op : BitVec 6) (a : BitVec 5) (b : BitVec 5) (c : BitVec 5) (xo : BitVec 10) (rc : Bool) : fld (encX op a b c xo rc) 6 3 = fld a 0 3 := by
  apply BitVec.eq_of_getLsbD_eq
  intro i hi
  simp only [fld, encX, BitVec.getLsbD_extractLsb', BitVec.getLsbD_append]
  interval_cases i <;> simp

theorem encX_bit_10 (op : BitVec 6) (a : BitVec 5) (b : BitVec 5) (c : BitVec 5) (xo : BitVec 10) (rc : Bool) : bitAt (encX op a b c xo rc) 10 = bitAt a 4 := by
  simp only [bitAt, encX, BitVec.getMsbD, BitVec.getLsbD_append]
  simp

theorem encX_fld_11_5 (op : BitVec 6) (a : BitVec 5) (b : BitVec 5) (c : BitVec 5) (xo : BitVec 10) (rc : Bool) : fld (encX op a b c xo rc) 11 5 = b := by
  apply BitVec.eq_of_getLsbD_eq
  intro i hi
  simp only [fld, encX, BitVec.getLsbD_extractLsb', BitVec.getLsbD_append]
  interval_cases i <;> simp

theorem encX_fld_11_3 (op : BitVec 6) (a : BitVec 5) (b : BitVec 5) (c : BitVec 5) (xo : BitVec 10) (rc : Bool) : fld (encX op a b c xo rc) 11 3 = fld b 0 3 := by
  apply BitVec.eq_of_getLsbD_eq
  intro i hi
  simp only [fld, encX, BitVec.getLsbD_extractLsb', BitVec.getLsbD_append]
  interval_cases i <;> simp

theorem encX_fld_16_5 (op : BitVec 6) (a : BitVec 5) (b : BitVec 5) (c : BitVec 5) (xo : BitVec 10) (rc : Bool) : fld (encX op a b c xo rc) 16 5 = c := by
  apply BitVec.eq_of_getLsbD_eq
  intro i hi
  simp only [fld, encX, BitVec.getLsbD_extractLsb', BitVec.getLsbD_append]
  interval_cases i <;> simp

theorem encX_fld_16_4 (op : BitVec 6) (a : BitVec 5) (b : BitVec 5) (c : BitVec 5) (xo : BitVec 10) (rc : Bool) : fld (encX op a b c xo rc) 16 4 = fld c 0 4 := by
  apply BitVec.eq_of_getLsbD_eq
  intro i hi
  simp only [fld, encX, BitVec.getLsbD_extractLsb', BitVec.getLsbD_append]
  interval_cases i <;> simp

theorem encX_fld_19_2 (op : BitVec 6) (a : BitVec 5) (b : BitVec 5) (c : BitVec 5) (xo : BitVec 10) (rc : Bool) : fld (encX op a b c xo rc) 19 2 = fld c 3 2 := by
  apply BitVec.eq_of_getLsbD_eq
  intro i hi
  simp only [fld, encX, BitVec.getLsbD_extractLsb', BitVec.getLsbD_append]
  interval_cases i <;> simp

theorem encX_bit_31 (op : BitVec 6) (a : BitVec 5) (b : BitVec 5) (c : BitVec 5) (xo : BitVec 10) (rc : Bool) : bitAt (encX op a b c xo rc) 31 = rc := by
  simp only [bitAt, encX, BitVec.getMsbD, BitVec.getLsbD_append]
  simp [bit]

theorem encXFX_fld_6_5 (op : BitVec 6) (a : BitVec 5) (one : Bool) (fxm : BitVec 8) (xo : BitVec 10) : fld (encXFX op a one fxm xo) 6 5 = a := by
  apply BitVec.eq_of_getLsbD_eq
  intro i hi
  simp only [fld, encXFX, BitVec.getLsbD_extractLsb', BitVec.getLsbD_append]
  interval_cases i <;> simp

theorem encXFX_fld_12_8 (op : BitVec 6) (a : BitVec 5) (one : Bool) (fxm : BitVec 8) (xo : BitVec 10) : fld (encXFX op a one fxm xo) 12 8 = fxm := by
  apply BitVec.eq_of_getLsbD_eq
  intro i hi
  simp only [fld, encXFX, BitVec.getLsbD_extractLsb', BitVec.getLsbD_append]
  interval_cases i <;> simp

theorem encXFL_fld_7_8 (op : BitVec 6) (flm : BitVec 8) (b : BitVec 5) (xo : BitVec 10) (rc : Bool) : fld (encXFL op flm b xo rc) 7 8 = flm := by
  apply BitVec.eq_of_getLsbD_eq
  intro i hi
  simp only [fld, encXFL, BitVec.getLsbD_extractLsb', BitVec.getLsbD_append]
  interval_cases i <;> simp

theorem encXFL_fld_16_5 (op : BitVec 6) (flm : BitVec 8) (b : BitVec 5) (xo : BitVec 10) (rc : Bool) : fld (encXFL op flm b xo rc) 16 5 = b := by
  apply BitVec.eq_of_getLsbD_eq
  intro i hi
  simp only [fld, encXFL, BitVec.getLsbD_extractLsb', BitVec.getLsbD_append]
  interval_cases i <;> simp

theorem encXFL_bit_31 (op : BitVec 6) (flm : BitVec 8) (b : BitVec 5) (xo : BitVec 10) (rc : Bool) : bitAt (encXFL op flm b xo rc) 31 = rc := by
  simp only [bitAt, encXFL, BitVec.getMsbD, BitVec.getLsbD_append]
  simp [bit]

theorem encXS_fld_6_5 (op : BitVec 6) (a : BitVec 5) (b : BitVec 5) (sh : BitVec 6) (xo : BitVec 9) (rc : Bool) : fld (encXS op a b sh xo rc) 6 5 = a := by
  apply BitVec.eq_of_getLsbD_eq
  intro i hi
  simp only [fld, encXS, BitVec.getLsbD_extractLsb', BitVec.getLsbD_append]
  interval_cases i <;> simp

theorem encXS_fld_11_5 (op : BitVec 6) (a : BitVec 5) (b : BitVec 5) (sh : BitVec 6) (xo : BitVec 9) (rc : Bool) : fld (encXS op a b sh xo rc) 11 5 = b := by
  apply BitVec.eq_of_getLsbD_eq
  intro i hi
  simp only [fld, encXS, BitVec.getLsbD_extractLsb', BitVec.getLsbD_append]
  interval_cases i <;> simp

theorem encXS_fld_30_1_fld_16_5 (op : BitVec 6) (a : BitVec 5) (b : BitVec 5) (sh : BitVec 6) (xo : BitVec 9) (rc : Bool) : fld (encXS op a b sh xo rc) 30 1 ++ fld (encXS op a b sh xo rc) 16 5 = sh := by
  apply BitVec.eq_of_getLsbD_eq
  intro i hi
  simp only [fld, encXS, BitVec.getLsbD_extractLsb', BitVec.getLsbD_append]
  interval_cases i <;> simp

theorem encXS_bit_31 (op : BitVec 6) (a : BitVec 5) (b : BitVec 5) (sh : BitVec 6) (xo : BitVec 9) (rc : Bool) : bitAt (encXS op a b sh xo rc) 31 = rc := by
  simp only [bitAt, encXS, BitVec.getMsbD, BitVec.getLsbD_append]
  simp [bit]

theorem encXO_fld_6_5 (op : BitVec 6) (a : BitVec 5) (b : BitVec 5) (c : BitVec 5) (oe : Bool) (xo : BitVec 9) (rc : Bool) : fld (encXO op a b c oe xo rc) 6 5 = a := by
  apply BitVec.eq_of_getLsbD_eq
  intro i hi
  simp only [fld, encXO, BitVec.getLsbD_extractLsb', BitVec.getLsbD_append]
  interval_cases i <;> simp

theorem encXO_fld_11_5 (op : BitVec 6) (a : BitVec 5) (b : BitVec 5) (c : BitVec 5) (oe : Bool) (xo : BitVec 9) (rc : Bool) : fld (encXO op a b c oe xo rc) 11 5 = b := by
  apply BitVec.eq_of_getLsbD_eq
  intro i hi
  simp only [fld, encXO, BitVec.getLsbD_extractLsb', BitVec.getLsbD_append]
  interval_cases i <;> simp

theorem encXO_fld_16_5 (op : BitVec 6) (a : BitVec 5) (b : BitVec 5) (c : BitVec 5) (oe : Bool) (xo : BitVec 9) (rc : Bool) : fld (encXO op a b c oe xo rc) 16 5 = c := by
  apply BitVec.eq_of_getLsbD_eq
  intro i hi
  simp only [fld, encXO, BitVec.getLsbD_extractLsb', BitVec.getLsbD_append]
  interval_cases i <;> simp

theorem encXO_bit_21 (op : BitVec 6) (a : BitVec 5) (b : BitVec 5) (c : BitVec 5) (oe : Bool) (xo : BitVec 9) (rc : Bool) : bitAt (encXO op a b c oe xo rc) 21 = oe := by
  simp only [bitAt, encXO, BitVec.getMsbD, BitVec.getLsbD_append]
  simp [bit]

theorem encXO_bit_31 (op : BitVec 6) (a : BitVec 5) (b : BitVec 5) (c : BitVec 5) (oe : Bool) (xo : BitVec 9) (rc : Bool) : bitAt (encXO op a b c oe xo rc) 31 = rc := by
  simp only [bitAt, encXO, BitVec.getMsbD, BitVec.getLsbD_append]
  simp [bit]

theorem encA_fld_6_5 (op : BitVec 6) (a : BitVec 5) (b : BitVec 5) (c : BitVec 5) (d : BitVec 5) (xo : BitVec 5) (rc : Bool) : fld (encA op a b c d xo rc) 6 5 = a := by
  apply BitVec.eq_of_getLsbD_eq
  intro i hi
  simp only [fld, encA, BitVec.getLsbD_extractLsb', BitVec.getLsbD_append]
  interval_cases i <;> simp

theorem encA_fld_11_5 (op : BitVec 6) (a : BitVec 5) (b : BitVec 5) (c : BitVec 5) (d : BitVec 5) (xo : BitVec 5) (rc : Bool) : fld (encA op a b c d xo rc) 11 5 = b := by
  apply BitVec.eq_of_getLsbD_eq
  intro i hi
  simp only [fld, encA, BitVec.getLsbD_extractLsb', BitVec.getLsbD_append]
  interval_cases i <;> simp

theorem encA_fld_16_5 (op : BitVec 6) (a : BitVec 5) (b : BitVec 5) (c : BitVec 5) (d : BitVec 5) (xo : BitVec 5) (rc : Bool) : fld (encA op a b c d xo rc) 16 5 = c := by
  apply BitVec.eq_of_getLsbD_eq
  intro i hi
  simp only [fld, encA, BitVec.getLsbD_extractLsb', BitVec.getLsbD_append]
  interval_cases i <;> simp

theorem encA_fld_21_5 (op : BitVec 6) (a : BitVec 5) (b : BitVec 5) (c : BitVec 5) (d : BitVec 5) (xo : BitVec 5) (rc : Bool) : fld (encA op a b c d xo rc) 21 5 = d := by
  apply BitVec.eq_of_getLsbD_eq
  intro i hi
  simp only [fld, encA, BitVec.getLsbD_extractLsb', BitVec.getLsbD_append]
  interval_cases i <;> simp

theorem encA_bit_31 (op : BitVec 6) (a : BitVec 5) (b : BitVec 5) (c : BitVec 5) (d : BitVec 5) (xo : BitVec 5) (rc : Bool) : bitAt (encA op a b c d xo rc) 31 = rc := by
  simp only [bitAt, encA, BitVec.getMsbD, BitVec.getLsbD_append]
  simp [bit]

theorem encM_fld_6_5 (op : BitVec 6) (a : BitVec 5) (b : BitVec 5) (c : BitVec 5) (mb : BitVec 5) (me : BitVec 5) (rc : Bool) : fld (encM op a b c mb me rc) 6 5 = a := by
  apply BitVec.eq_of_getLsbD_eq
  intro i hi
  simp only [fld, encM, BitVec.getLsbD_extractLsb', BitVec.getLsbD_append]
  interval_cases i <;> simp

theorem encM_fld_11_5 (op : BitVec 6) (a : BitVec 5) (b : BitVec 5) (c : BitVec 5) (mb : BitVec 5) (me : BitVec 5) (rc : Bool) : fld (encM op a b c mb me rc) 11 5 = b := by
  apply BitVec.eq_of_getLsbD_eq
  intro i hi
  simp only [fld, encM, BitVec.getLsbD_extractLsb', BitVec.getLsbD_append]
  interval_cases i <;> simp

theorem encM_fld_16_5 (op : BitVec 6) (a : BitVec 5) (b : BitVec 5) (c : BitVec 5) (mb : BitVec 5) (me : BitVec 5) (rc : Bool) : fld (encM op a b c mb me rc) 16 5 = c := by
  apply BitVec.eq_of_getLsbD_eq
  intro i hi
  simp only [fld, encM, BitVec.getLsbD_extractLsb', BitVec.getLsbD_append]
  interval_cases i <;> simp

theorem encM_fld_21_5 (op : BitVec 6) (a : BitVec 5) (b : BitVec 5) (c : BitVec 5) (mb : BitVec 5) (me : BitVec 5) (rc : Bool) : fld (encM op a b c mb me rc) 21 5 = mb := by
  apply BitVec.eq_of_getLsbD_eq
  intro i hi
  simp only [fld, encM, BitVec.getLsbD_extractLsb', BitVec.getLsbD_append]
  interval_cases i <;> simp

theorem encM_fld_26_5 (op : BitVec 6) (a : BitVec 5) (b : BitVec 5) (c : BitVec 5) (mb : BitVec 5) (me : BitVec 5) (rc : Bool) : fld (encM op a b c mb me rc) 26 5 = me := by
  apply BitVec.eq_of_getLsbD_eq
  intro i hi
  simp only [fld, encM, BitVec.getLsbD_extractLsb', BitVec.getLsbD_append]
  interval_cases i <;> simp

theorem encM_bit_31 (op : BitVec 6) (a : BitVec 5) (b : BitVec 5) (c : BitVec 5) (mb : BitVec 5) (me : BitVec 5) (rc : Bool) : bitAt (encM op a b c mb me rc) 31 = rc := by
  simp only [bitAt, encM, BitVec.getMsbD, BitVec.getLsbD_append]
  simp [bit]

theorem encMD_fld_6_5 (op : BitVec 6) (a : BitVec 5) (b : BitVec 5) (sh : BitVec 6) (m : BitVec 6) (xo : BitVec 3) (rc : Bool) : fld (encMD op a b sh m xo rc) 6 5 = a := by
  apply BitVec.eq_of_getLsbD_eq
  intro i hi
  simp only [fld, encMD, BitVec.getLsbD_extractLsb', BitVec.getLsbD_append]
  interval_cases i <;> simp

theorem encMD_fld_11_5 (op : BitVec 6) (a : BitVec 5) (b : BitVec 5) (sh : BitVec 6) (m : BitVec 6) (xo : BitVec 3) (rc : Bool) : fld (encMD op a b sh m xo rc) 11 5 = b := by
  apply BitVec.eq_of_getLsbD_eq
  intro i hi
  simp only [fld, encMD, BitVec.getLsbD_extractLsb', BitVec.getLsbD_append]
  interval_cases i <;> simp

theorem encMD_fld_30_1_fld_16_5 (op : BitVec 6) (a : BitVec 5) (b : BitVec 5) (sh : BitVec 6) (m : BitVec 6) (xo : BitVec 3) (rc : Bool) : fld (encMD op a b sh m xo rc) 30 1 ++ fld (encMD op a b sh m xo rc) 16 5 = sh := by
  apply BitVec.eq_of_getLsbD_eq
  intro i hi
  simp only [fld, encMD, BitVec.getLsbD_extractLsb', BitVec.getLsbD_append]
  interval_cases i <;> simp

theorem encMD_fld_26_1_fld_21_5 (op : BitVec 6) (a : BitVec 5) (b : BitVec 5) (sh : BitVec 6) (m : BitVec 6) (xo : BitVec 3) (rc : Bool) : fld (encMD op a b sh m xo rc) 26 1 ++ fld (encMD op a b sh m xo rc) 21 5 = m := by
  apply BitVec.eq_of_getLsbD_eq
  intro i hi
  simp only [fld, encMD, BitVec.getLsbD_extractLsb', BitVec.getLsbD_append]
  interval_cases i <;> simp

theorem encMD_bit_31 (op : BitVec 6) (a : BitVec 5) (b : BitVec 5) (sh : BitVec 6) (m : BitVec 6) (xo : BitVec 3) (rc : Bool) : bitAt (encMD op a b sh m xo rc) 31 = rc := by
  simp only [bitAt, encMD, BitVec.getMsbD, BitVec.getLsbD_append]
  simp [bit]

theorem encMDS_fld_6_5 (op : BitVec 6) (a : BitVec 5) (b : BitVec 5) (c : BitVec 5) (m : BitVec 6) (xo : BitVec 4) (rc : Bool) : fld (encMDS op a b c m xo rc) 6 5 = a := by
  apply BitVec.eq_of_getLsbD_eq
  intro i hi
  simp only [fld, encMDS, BitVec.getLsbD_extractLsb', BitVec.getLsbD_append]
  interval_cases i <;> simp

theorem encMDS_fld_11_5 (op : BitVec 6) (a : BitVec 5) (b : BitVec 5) (c : BitVec 5) (m : BitVec 6) (xo : BitVec 4) (rc : Bool) : fld (encMDS op a b c m xo rc) 11 5 = b := by
  apply BitVec.eq_of_getLsbD_eq
  intro i hi
  simp only [fld, encMDS, BitVec.getLsbD_extractLsb', BitVec.getLsbD_append]
  interval_cases i <;> simp

theorem encMDS_fld_16_5 (op : BitVec 6) (a : BitVec 5) (b : BitVec 5) (c : BitVec 5) (m : BitVec 6) (xo : BitVec 4) (rc : Bool) : fld (encMDS op a b c m xo rc) 16 5 = c := by
  apply BitVec.eq_of_getLsbD_eq
  intro i hi
  simp only [fld, encMDS, BitVec.getLsbD_extractLsb', BitVec.getLsbD_append]
  interval_cases i <;> simp

theorem encMDS_fld_26_1_fld_21_5 (op : BitVec 6) (a : BitVec 5) (b : BitVec 5) (c : BitVec 5) (m : BitVec 6) (xo : BitVec 4) (rc : Bool) : fld (encMDS op a b c m xo rc) 26 1 ++ fld (encMDS op a b c m xo rc) 21 5 = m := by
  apply BitVec.eq_of_getLsbD_eq
  intro i hi
  simp only [fld, encMDS, BitVec.getLsbD_extractLsb', BitVec.getLsbD_append]
  interval_cases i <;> simp

theorem encMDS_bit_31 (op : BitVec 6) (a : BitVec 5) (b : BitVec 5) (c : BitVec 5) (m : BitVec 6) (xo : BitVec 4) (rc : Bool) : bitAt (encMDS op a b c m xo rc) 31 = rc := by
  simp only [bitAt, encMDS, BitVec.getMsbD, BitVec.getLsbD_append]
  simp [bit]

theorem encA_and_FC00003E (op : BitVec 6) (a : BitVec 5) (b : BitVec 5) (c : BitVec 5) (d : BitVec 5) (xo : BitVec 5) (rc : Bool) :
    encA op a b c d xo rc &&& 0xFC00003E#32 = encA op 0#5 0#5 0#5 0#5 xo false := by
  apply BitVec.eq_of_getLsbD_eq
  intro i hi
  simp only [encA, BitVec.getLsbD_and, BitVec.getLsbD_append, bit, BitVec.getLsbD_ofBool]
  interval_cases i <;> simp

theorem encB_and_FC000000 (op : BitVec 6) (bo : BitVec 5) (bi : BitVec 5) (bd : BitVec 14) (aa : Bool) (lk : Bool) :
    encB op bo bi bd aa lk &&& 0xFC000000#32 = encB op 0#5 0#5 0#14 false false := by
  apply BitVec.eq_of_getLsbD_eq
  intro i hi
  simp only [encB, BitVec.getLsbD_and, BitVec.getLsbD_append, bit, BitVec.getLsbD_ofBool]
  interval_cases i <;> simp

theorem encD_and_FC000000 (op : BitVec 6) (a : BitVec 5) (b : BitVec 5) (d : BitVec 16) :
    encD op a b d &&& 0xFC000000#32 = encD op 0#5 0#5 0#16 := by
  apply BitVec.eq_of_getLsbD_eq
  intro i hi
  simp only [encD, BitVec.getLsbD_and, BitVec.getLsbD_append]
  interval_cases i <;> simp

theorem encDS_and_FC000003 (op : BitVec 6) (a : BitVec 5) (b : BitVec 5) (ds : BitVec 14) (xo : BitVec 2) :
    encDS op a b ds xo &&& 0xFC000003#32 = encDS op 0#5 0#5 0#14 xo := by
  apply BitVec.eq_of_getLsbD_eq
  intro i hi
  simp only [encDS, BitVec.getLsbD_and, BitVec.getLsbD_append]
  interval_cases i <;> simp

theorem encI_and_FC000000 (op : BitVec 6) (li : BitVec 24) (aa : Bool) (lk : Bool) :
    encI op li aa lk &&& 0xFC000000#32 = encI op 0#24 false false := by
  apply BitVec.eq_of_getLsbD_eq
  intro i hi
  simp only [encI, BitVec.getLsbD_and, BitVec.getLsbD_append, bit, BitVec.getLsbD_ofBool]
  interval_cases i <;> simp

theorem encM_and_FC000000 (op : BitVec 6) (a : BitVec 5) (b : BitVec 5) (c : BitVec 5) (mb : BitVec 5) (me : BitVec 5) (rc : Bool) :
    encM op a b c mb me rc &&& 0xFC000000#32 = encM op 0#5 0#5 0#5 0#5 0#5 false := by
  apply BitVec.eq_of_getLsbD_eq
  intro i hi
  simp only [encM, BitVec.getLsbD_and, BitVec.getLsbD_append, bit, BitVec.getLsbD_ofBool]
  interval_cases i <;> simp

theorem encMD_and_FC00001C (op : BitVec 6) (a : BitVec 5) (b : BitVec 5) (sh : BitVec 6) (m : BitVec 6) (xo : BitVec 3) (rc : Bool) :
    encMD op a b sh m xo rc &&& 0xFC00001C#32 = encMD op 0#5 0#5 0#6 0#6 xo false := by
  apply BitVec.eq_of_getLsbD_eq
  intro i hi
  simp only [encMD, BitVec.getLsbD_and, BitVec.getLsbD_append, bit, BitVec.getLsbD_ofBool]
  interval_cases i <;> simp [fld]

theorem encMDS_and_FC00001E (op : BitVec 6) (a : BitVec 5) (b : BitVec 5) (c : BitVec 5) (m : BitVec 6) (xo : BitVec 4) (rc : Bool) :
    encMDS op a b c m xo rc &&& 0xFC00001E#32 = encMDS op 0#5 0#5 0#5 0#6 xo false := by
  apply BitVec.eq_of_getLsbD_eq
  intro i hi
  simp only [encMDS, BitVec.getLsbD_and, BitVec.getLsbD_append, bit, BitVec.getLsbD_ofBool]
  interval_cases i <;> simp [fld]

theorem encSC_and_FC000000 (op : BitVec 6) (lev : BitVec 7) (one : Bool) :
    encSC op lev one &&& 0xFC000000#32 = encSC op 0#7 false := by
  apply BitVec.eq_of_getLsbD_eq
  intro i hi
  simp only [encSC, BitVec.getLsbD_and, BitVec.getLsbD_append, bit, BitVec.getLsbD_ofBool]
  interval_cases i <;> simp

theorem encX_and_FC0007FE (op : BitVec 6) (a : BitVec 5) (b : BitVec 5) (c : BitVec 5) (xo : BitVec 10) (rc : Bool) :
    encX op a b c xo rc &&& 0xFC0007FE#32 = encX op 0#5 0#5 0#5 xo false := by
  apply BitVec.eq_of_getLsbD_eq
  intro i hi
  simp only [encX, BitVec.getLsbD_and, BitVec.getLsbD_append, bit, BitVec.getLsbD_ofBool]
  interval_cases i <;> simp

theorem encX_and_FC0007FF (op : BitVec 6) (a : BitVec 5) (b : BitVec 5) (c : BitVec 5) (xo : BitVec 10) (rc : Bool) :
    encX op a b c xo rc &&& 0xFC0007FF#32 = encX op 0#5 0#5 0#5 xo rc := by
  apply BitVec.eq_of_getLsbD_eq
  intro i hi
  simp only [encX, BitVec.getLsbD_and, BitVec.getLsbD_append, bit, BitVec.getLsbD_ofBool]
  interval_cases i <;> simp

theorem encXFL_and_FC0007FE (op : BitVec 6) (flm : BitVec 8) (b : BitVec 5) (xo : BitVec 10) (rc : Bool) :
    encXFL op flm b xo rc &&& 0xFC0007FE#32 = encXFL op 0#8 0#5 xo false := by
  apply BitVec.eq_of_getLsbD_eq
  intro i hi
  simp only [encXFL, BitVec.getLsbD_and, BitVec.getLsbD_append, bit, BitVec.getLsbD_ofBool]
  interval_cases i <;> simp

theorem encXFX_and_FC1007FE (op : BitVec 6) (a : BitVec 5) (one : Bool) (fxm : BitVec 8) (xo : BitVec 10) :
    encXFX op a one fxm xo &&& 0xFC1007FE#32 = encXFX op 0#5 one 0#8 xo := by
  apply BitVec.eq_of_getLsbD_eq
  intro i hi
  simp only [encXFX, BitVec.getLsbD_and, BitVec.getLsbD_append, bit, BitVec.getLsbD_ofBool]
  interval_cases i <;> simp

theorem encXO_and_FC0003FE (op : BitVec 6) (a : BitVec 5) (b : BitVec 5) (c : BitVec 5) (oe : Bool) (xo : BitVec 9) (rc : Bool) :
    encXO op a b c oe xo rc &&& 0xFC0003FE#32 = encXO op 0#5 0#5 0#5 false xo false := by
  apply BitVec.eq_of_getLsbD_eq
  intro i hi
  simp only [encXO, BitVec.getLsbD_and, BitVec.getLsbD_append, bit, BitVec.getLsbD_ofBool]
  interval_cases i <;> simp

theorem encXS_and_FC0007FC (op : BitVec 6) (a : BitVec 5) (b : BitVec 5) (sh : BitVec 6) (xo : BitVec 9) (rc : Bool) :
    encXS op a b sh xo rc &&& 0xFC0007FC#32 = encXS op 0#5 0#5 0#6 xo false := by
  apply BitVec.eq_of_getLsbD_eq
  intro i hi
  simp only [encXS, BitVec.getLsbD_and, BitVec.getLsbD_append, bit, BitVec.getLsbD_ofBool]
  interval_cases i <;> simp [fld]

theorem fld_bf_fill (bf : BitVec 3) (x : BitVec 2) : fld (bf ++ x : BitVec 5) 0 3 = bf := by
  apply BitVec.eq_of_getLsbD_eq
  intro i hi
  simp only [fld, BitVec.getLsbD_extractLsb', BitVec.getLsbD_append]
  interval_cases i <;> simp

theorem fld_bf_l (bf : BitVec 3) (x : BitVec 1) (l : Bool) : fld (bf ++ x ++ bit l : BitVec 5) 0 3 = bf := by
  apply BitVec.eq_of_getLsbD_eq
  intro i hi
  simp only [fld, BitVec.getLsbD_extractLsb', BitVec.getLsbD_append]
  interval_cases i <;> simp

theorem bitAt_bf_l (bf : BitVec 3) (x : BitVec 1) (l : Bool) : bitAt (bf ++ x ++ bit l : BitVec 5) 4 = l := by
  simp only [bitAt, BitVec.getMsbD, BitVec.getLsbD_append]
  simp [bit]

theorem fld_u_fill (u : BitVec 4) (x : BitVec 1) : fld (u ++ x : BitVec 5) 0 4 = u := by
  apply BitVec.eq_of_getLsbD_eq
  intro i hi
  simp only [fld, BitVec.getLsbD_extractLsb', BitVec.getLsbD_append]
  interval_cases i <;> simp

theorem fld_fill_bh (x : BitVec 3) (bh : BitVec 2) : fld (x ++ bh : BitVec 5) 3 2 = bh := by
  apply BitVec.eq_of_getLsbD_eq
  intro i hi
  simp only [fld, BitVec.getLsbD_extractLsb', BitVec.getLsbD_append]
  interval_cases i <;> simp

theorem hi5_append_lo5 (n : BitVec 10) : (hi5 n ++ lo5 n : BitVec 10) = n := by
  apply BitVec.eq_of_getLsbD_eq
  intro i hi
  simp only [hi5, lo5, fld, BitVec.getLsbD_extractLsb', BitVec.getLsbD_append]
  interval_cases i <;> simp

/-- Two rows differ in an opcode bit that both fix. -/
def Row.apart (a b : Row) : Bool := a.mask &&& b.mask &&& (a.pat ^^^ b.pat) != 0#32

set_option maxRecDepth 100000 in
/-- Any two rows of the opcode table differ in a bit that both fix. -/
theorem rows_apart : rows.Pairwise (fun a b => a.apart b = true) := by decide +kernel

theorem not_both_cover (a b : Row) (w : Word) (h : a.apart b = true) (ha : a.covers w = true) : b.covers w = false := by
  cases hb : b.covers w with
  | false => rfl
  | true =>
    simp only [Row.covers, beq_iff_eq] at ha hb
    have hz : a.mask &&& b.mask &&& (a.pat ^^^ b.pat) = 0#32 := by
      rw [← ha, ← hb]
      apply BitVec.eq_of_getLsbD_eq
      intro i hi
      simp only [BitVec.getLsbD_and, BitVec.getLsbD_xor, BitVec.getLsbD_zero]
      cases w.getLsbD i <;> cases a.mask.getLsbD i <;> cases b.mask.getLsbD i <;> rfl
    simp [Row.apart, hz] at h

theorem find_of_apart (w : Word) (r : Row) (hr : r.covers w = true) :
    ∀ l : List Row, l.Pairwise (fun a b => a.apart b = true) → r ∈ l → l.find? (·.covers w) = some r
  | [], _, hm => by cases hm
  | a :: l, hp, hm => by
    rw [List.pairwise_cons] at hp
    cases hm with
    | head => simp [hr]
    | tail _ hm =>
      have hc : a.covers w = false := by
        cases ha : a.covers w with
        | false => rfl
        | true => rw [not_both_cover a r w (hp.1 r hm) ha] at hr; cases hr
      simp [hc, find_of_apart w r hr l hp.2 hm]

/-- A word that a row covers decodes to that row's instruction. -/
theorem decodeWord_of_row (w : Word) (r : Row) (hm : r ∈ rows) (hr : r.covers w = true) : decodeWord w = .ok (r.build w) := by
  unfold decodeWord
  rw [find_of_apart w r hr rows rows_apart hm]

/-- The bytes of a word, put together again. -/
theorem wordOfBytes_bytesOfWord (w : Word) : wordOfBytes (fld w 0 8) (fld w 8 8) (fld w 16 8) (fld w 24 8) = w := by
  apply BitVec.eq_of_getLsbD_eq
  intro i hi
  simp only [wordOfBytes, fld, BitVec.getLsbD_extractLsb', BitVec.getLsbD_append]
  interval_cases i <;> simp

/-- Decoding the bytes of a word, whatever follows them. -/
theorem decode_bytesOfWord (w : Word) (rest : List Byte) :
    decode (bytesOfWord w ++ rest) =
      match decodeWord w with
      | .ok i => .ok (i, rest)
      | .error e => .error e := by
  cases h : decodeWord w <;> simp only [bytesOfWord, List.cons_append, List.nil_append, decode, wordOfBytes_bytesOfWord, h]

end Sys2Proof
end

