-- ==== Sys2Proof/Laws/Memory.lean ====
section
/-! SUPPORT. Storage: reading after writing, and the canonical form kept by every operation. -/
namespace Sys2Proof.Machine

/-- Every listed address is above `a`. -/
def Memory.above (a : Nat) (m : Memory) : Bool := m.all (fun c => decide (a < c.1))

theorem Memory.wf_cons {a : Nat} {b : Byte} {m : Memory} (h : Memory.wf ((a, b) :: m) = true) :
    a < 2 ^ 64 ∧ b ≠ Memory.unlisted ∧ Memory.above a m = true ∧ Memory.wf m = true := by
  induction m generalizing a b with
  | nil => simp_all [Memory.wf, Memory.above]
  | cons c m ih =>
    obtain ⟨k, v⟩ := c
    simp only [Memory.wf, Bool.and_eq_true, decide_eq_true_eq, bne_iff_ne] at h
    obtain ⟨⟨⟨h1, h2⟩, h3⟩, h4⟩ := h
    have h5 := ih (a := k) (b := v) (by simp only [Memory.wf, Bool.and_eq_true, decide_eq_true_eq, bne_iff_ne]; exact h4)
    refine ⟨h1, h2, ?_, by simp only [Memory.wf, Bool.and_eq_true, decide_eq_true_eq, bne_iff_ne]; exact h4⟩
    simp only [Memory.above, List.all_cons, Bool.and_eq_true, decide_eq_true_eq]
    refine ⟨h3, ?_⟩
    have h6 := h5.2.2.1
    simp only [Memory.above, List.all_eq_true, decide_eq_true_eq] at h6 ⊢
    intro c hc
    have := h6 c hc
    omega

theorem Memory.wf_cons_of {a : Nat} {b : Byte} {m : Memory} (h1 : a < 2 ^ 64) (h2 : b ≠ Memory.unlisted)
    (h3 : Memory.above a m = true) (h4 : Memory.wf m = true) : Memory.wf ((a, b) :: m) = true := by
  cases m with
  | nil => simpa [Memory.wf, h2] using h1
  | cons c m =>
    obtain ⟨k, v⟩ := c
    simp only [Memory.above, List.all_cons, Bool.and_eq_true, decide_eq_true_eq] at h3
    unfold Memory.wf
    simp only [Bool.and_eq_true, decide_eq_true_eq, bne_iff_ne]
    exact ⟨⟨⟨h1, h2⟩, h3.1⟩, h4⟩

theorem Memory.above_of_lt {a k : Nat} {m : Memory} (h : a < k) (hm : Memory.above k m = true) : Memory.above a m = true := by
  simp only [Memory.above, List.all_eq_true, decide_eq_true_eq] at *
  intro c hc
  have := hm c hc
  omega

theorem Memory.above_write {a k : Nat} {m : Memory} (v : Byte) (h : k < a) (hm : Memory.above k m = true) :
    Memory.above k (Memory.write m a v) = true := by
  induction m with
  | nil => by_cases hv : v = Memory.unlisted <;> simp [Memory.write, Memory.above, hv, h]
  | cons c m ih =>
    obtain ⟨j, b⟩ := c
    have hm' := hm
    simp only [Memory.above, List.all_cons, Bool.and_eq_true, decide_eq_true_eq] at hm
    have ih' := ih hm.2
    simp only [Memory.above] at ih'
    unfold Memory.write
    split
    · split
      · exact hm'
      · simp [Memory.above, h]
        exact ⟨hm.1, by simpa using hm.2⟩
    · split
      · split
        · exact hm.2
        · simp [Memory.above, hm.1]
          simpa using hm.2
      · simp only [Memory.above, List.all_cons, Bool.and_eq_true, decide_eq_true_eq]
        exact ⟨hm.1, ih'⟩

/-- A write keeps the canonical form. -/
theorem Memory.write_wf (m : Memory) (a : Nat) (v : Byte) (hm : Memory.wf m = true) (ha : a < 2 ^ 64) :
    Memory.wf (Memory.write m a v) = true := by
  induction m with
  | nil => by_cases hv : v = Memory.unlisted <;> simp [Memory.write, Memory.wf, hv]; simpa using ha
  | cons c m ih =>
    obtain ⟨k, b⟩ := c
    obtain ⟨h1, h2, h3, h4⟩ := Memory.wf_cons hm
    unfold Memory.write
    split
    · next hlt =>
      split
      · exact hm
      · next hv =>
        refine Memory.wf_cons_of ha hv ?_ hm
        have := Memory.above_of_lt hlt h3
        simp only [Memory.above, List.all_cons, Bool.and_eq_true, decide_eq_true_eq] at this ⊢
        exact ⟨hlt, this⟩
    · split
      · split
        · exact h4
        · next hv => exact Memory.wf_cons_of h1 hv h3 h4
      · exact Memory.wf_cons_of h1 h2 (Memory.above_write v (by omega) h3) (ih h4)

theorem Memory.read_of_above {a b : Nat} {m : Memory} (h : Memory.above a m = true) (hb : b ≤ a) :
    Memory.read m b = Memory.unlisted := by
  induction m with
  | nil => rfl
  | cons c m ih =>
    obtain ⟨k, v⟩ := c
    simp only [Memory.above, List.all_cons, Bool.and_eq_true, decide_eq_true_eq] at h
    have : k ≠ b := by omega
    simp only [Memory.read, this, if_false]
    exact ih h.2

/-- Reading the byte that was written. -/
theorem Memory.read_write_same (m : Memory) (a : Nat) (v : Byte) (hm : Memory.wf m = true) :
    Memory.read (Memory.write m a v) a = v := by
  induction m with
  | nil => by_cases hv : v = Memory.unlisted <;> simp [Memory.write, Memory.read, hv]
  | cons c m ih =>
    obtain ⟨k, b⟩ := c
    obtain ⟨h1, h2, h3, h4⟩ := Memory.wf_cons hm
    unfold Memory.write
    split
    · next hlt =>
      split
      · next hv =>
        have hk : k ≠ a := by omega
        simp only [Memory.read, hk, if_false, hv]
        exact Memory.read_of_above h3 (by omega)
      · simp [Memory.read]
    · split
      · next heq =>
        split
        · next hv => rw [hv]; exact Memory.read_of_above h3 (by omega)
        · next hv => simp [Memory.read, heq]
      · next hne =>
        have hk : k ≠ a := fun h => hne h.symm
        simp only [Memory.read, hk, if_false]
        exact ih h4

/-- Reading any other byte. -/
theorem Memory.read_write_other (m : Memory) (a b : Nat) (v : Byte) (h : b ≠ a) :
    Memory.read (Memory.write m a v) b = Memory.read m b := by
  have h' : a ≠ b := fun e => h e.symm
  induction m with
  | nil => by_cases hv : v = Memory.unlisted <;> simp [Memory.write, Memory.read, hv, h']
  | cons c m ih =>
    obtain ⟨k, w⟩ := c
    unfold Memory.write
    split
    · split <;> simp [Memory.read, h']
    · split
      · next heq =>
        have hk : k ≠ b := by omega
        split <;> simp [Memory.read, hk]
      · simp only [Memory.read, ih]

/-- Storing several bytes keeps the canonical form. -/
theorem Memory.writeAll_wf (m : Memory) (as : List Nat) (bs : List Byte) (hm : Memory.wf m = true)
    (h : ∀ a ∈ as, a < 2 ^ 64) : Memory.wf (Memory.writeAll m as bs) = true := by
  induction as generalizing m bs with
  | nil => simpa [Memory.writeAll] using hm
  | cons a as ih =>
    cases bs with
    | nil => simpa [Memory.writeAll] using hm
    | cons b bs =>
      simp only [Memory.writeAll]
      exact ih _ bs (Memory.write_wf m a b hm (h a (by simp))) (fun x hx => h x (by simp [hx]))

/-- Strictly rising addresses above `a`. -/
theorem addressesWf_cons {a : Nat} {l : List Nat} :
    addressesWf (a :: l) = true ↔ a < 2 ^ 64 ∧ (∀ c ∈ l, a < c) ∧ addressesWf l = true := by
  induction l generalizing a with
  | nil => simp [addressesWf]
  | cons c l ih =>
    constructor
    · intro h
      unfold addressesWf at h
      simp only [Bool.and_eq_true, decide_eq_true_eq] at h
      obtain ⟨⟨h1, h2⟩, h3⟩ := h
      refine ⟨h1, ?_, h3⟩
      intro d hd
      rcases List.mem_cons.mp hd with rfl | hd
      · exact h2
      · have := (ih.mp h3).2.1 d hd
        omega
    · rintro ⟨h1, h2, h3⟩
      unfold addressesWf
      simp only [Bool.and_eq_true, decide_eq_true_eq]
      exact ⟨⟨h1, h2 c (by simp)⟩, h3⟩

theorem mem_insertAddr {l : List Nat} {a c : Nat} : c ∈ insertAddr l a ↔ c = a ∨ c ∈ l := by
  induction l with
  | nil => simp [insertAddr]
  | cons k l ih =>
    unfold insertAddr
    split
    · simp
    · split
      · next h => subst h; simp
      · simp only [List.mem_cons, ih]
        constructor
        · rintro (h | h | h) <;> simp [h]
        · rintro (h | h | h) <;> simp [h]

/-- Entering an address keeps the form of the list of modified addresses. -/
theorem addressesWf_insertAddr (l : List Nat) (a : Nat) (h : addressesWf l = true) (ha : a < 2 ^ 64) :
    addressesWf (insertAddr l a) = true := by
  induction l with
  | nil => simpa [insertAddr, addressesWf] using ha
  | cons k l ih =>
    obtain ⟨h1, h2, h3⟩ := addressesWf_cons.mp h
    unfold insertAddr
    split
    · next hlt =>
      refine addressesWf_cons.mpr ⟨ha, ?_, h⟩
      intro c hc
      rcases List.mem_cons.mp hc with rfl | hc
      · exact hlt
      · have := h2 c hc; omega
    · split
      · exact h
      · refine addressesWf_cons.mpr ⟨h1, ?_, ih h3⟩
        intro c hc
        rcases mem_insertAddr.mp hc with rfl | hc
        · omega
        · exact h2 c hc

/-! ### Storing bytes -/

/-- A byte stored in the canonical form is read back; any other byte is as before. -/
theorem State.readByte_writeByte (s : State) (a b : Nat) (v : Byte) (h : Memory.wf s.mem = true) :
    (s.writeByte a v).readByte b = if b = a then v else s.readByte b := by
  by_cases hb : b = a
  · subst hb; simp [State.readByte, State.writeByte, Memory.read_write_same _ _ _ h]
  · simp [State.readByte, State.writeByte, Memory.read_write_other _ _ _ _ hb, hb]

/-- Bytes not stored to are as before. -/
theorem State.readByte_storeBytes_other (s : State) (as : List Nat) (bs : List Byte) (b : Nat) (h : b ∉ as) :
    (s.storeBytes as bs).readByte b = s.readByte b := by
  induction as generalizing s bs with
  | nil => rfl
  | cons a as ih =>
    cases bs with
    | nil => rfl
    | cons x bs =>
      simp only [List.mem_cons, not_or] at h
      simp only [State.storeBytes]
      rw [ih _ _ h.2]
      exact Memory.read_write_other _ _ _ _ h.1

theorem State.storeBytes_mem_wf (s : State) (as : List Nat) (bs : List Byte) (h : Memory.wf s.mem = true)
    (ha : ∀ a ∈ as, a < 2 ^ 64) : Memory.wf (s.storeBytes as bs).mem = true := by
  induction as generalizing s bs with
  | nil => exact h
  | cons a as ih =>
    cases bs with
    | nil => exact h
    | cons x bs =>
      simp only [State.storeBytes]
      exact ih _ _ (Memory.write_wf _ _ _ h (ha a (by simp))) (fun y hy => ha y (by simp [hy]))

/-- The bytes stored at distinct addresses are read back. -/
theorem State.readByte_storeBytes_same (s : State) (as : List Nat) (bs : List Byte) (i : Nat) (hi : i < as.length)
    (hb : i < bs.length) (hd : as.Nodup) (h : Memory.wf s.mem = true) (ha : ∀ a ∈ as, a < 2 ^ 64) :
    (s.storeBytes as bs).readByte as[i] = bs[i] := by
  induction as generalizing s bs i with
  | nil => simp at hi
  | cons a as ih =>
    cases bs with
    | nil => simp at hb
    | cons x bs =>
      obtain ⟨hn, hd⟩ := List.nodup_cons.mp hd
      simp only [State.storeBytes]
      cases i with
      | zero =>
        simp only [List.getElem_cons_zero]
        rw [State.readByte_storeBytes_other _ _ _ _ hn]
        exact Memory.read_write_same _ _ _ h
      | succ i =>
        simp only [List.getElem_cons_succ]
        exact ih _ _ _ _ _ hd (Memory.write_wf _ _ _ h (ha a (by simp))) (fun y hy => ha y (by simp [hy]))

/-- Storing bytes keeps the form of the list of modified addresses. -/
theorem State.storeBytes_modified (s : State) (as : List Nat) (bs : List Byte) (h : addressesWf s.modified = true)
    (ha : ∀ a ∈ as, a < 2 ^ 64) : addressesWf (s.storeBytes as bs).modified = true := by
  induction as generalizing s bs with
  | nil => exact h
  | cons a as ih =>
    cases bs with
    | nil => exact h
    | cons x bs =>
      simp only [State.storeBytes]
      exact ih _ _ (addressesWf_insertAddr _ _ h (ha a (by simp))) (fun y hy => ha y (by simp [hy]))

end Sys2Proof.Machine
end

