-- ==== Sys2Proof/Laws/State.lean ====
section
/-! SUPPORT. One lemma per field, and per reader of a field, per update of State: each true by unfolding the update. -/
namespace Sys2Proof.Machine

set_option Elab.async false

@[simp] theorem State.setGpr_gpr (s : State) (r : Reg) (v : DWord) : (s.setGpr r v).gpr = s.gpr.set r.toNat v r.isLt := rfl
@[simp] theorem State.setGpr_fpr (s : State) (r : Reg) (v : DWord) : (s.setGpr r v).fpr = s.fpr := rfl
@[simp] theorem State.setGpr_cr (s : State) (r : Reg) (v : DWord) : (s.setGpr r v).cr = s.cr := rfl
@[simp] theorem State.setGpr_lr (s : State) (r : Reg) (v : DWord) : (s.setGpr r v).lr = s.lr := rfl
@[simp] theorem State.setGpr_ctr (s : State) (r : Reg) (v : DWord) : (s.setGpr r v).ctr = s.ctr := rfl
@[simp] theorem State.setGpr_xer (s : State) (r : Reg) (v : DWord) : (s.setGpr r v).xer = s.xer := rfl
@[simp] theorem State.setGpr_fpscr (s : State) (r : Reg) (v : DWord) : (s.setGpr r v).fpscr = s.fpscr := rfl
@[simp] theorem State.setGpr_pc (s : State) (r : Reg) (v : DWord) : (s.setGpr r v).pc = s.pc := rfl
@[simp] theorem State.setGpr_le (s : State) (r : Reg) (v : DWord) : (s.setGpr r v).le = s.le := rfl
@[simp] theorem State.setGpr_ile (s : State) (r : Reg) (v : DWord) : (s.setGpr r v).ile = s.ile := rfl
@[simp] theorem State.setGpr_mem (s : State) (r : Reg) (v : DWord) : (s.setGpr r v).mem = s.mem := rfl
@[simp] theorem State.setGpr_params (s : State) (r : Reg) (v : DWord) : (s.setGpr r v).params = s.params := rfl
@[simp] theorem State.setGpr_modified (s : State) (r : Reg) (v : DWord) : (s.setGpr r v).modified = s.modified := rfl
@[simp] theorem State.setGpr_fprSingle (s : State) (r : Reg) (v : DWord) : (s.setGpr r v).fprSingle = s.fprSingle := rfl
@[simp] theorem State.setGpr_draws (s : State) (r : Reg) (v : DWord) : (s.setGpr r v).draws = s.draws := rfl
@[simp] theorem State.setGpr_outcome (s : State) (r : Reg) (v : DWord) : (s.setGpr r v).outcome = s.outcome := rfl

@[simp] theorem State.setGpr_readFpr (s : State) (r : Reg) (v : DWord) (q : Reg) : (s.setGpr r v).readFpr q = s.readFpr q := rfl
@[simp] theorem State.setGpr_isSingle (s : State) (r : Reg) (v : DWord) (q : Reg) : (s.setGpr r v).isSingle q = s.isSingle q := rfl
@[simp] theorem State.setGpr_readByte (s : State) (r : Reg) (v : DWord) (q : Nat) : (s.setGpr r v).readByte q = s.readByte q := rfl
@[simp] theorem State.setGpr_crField (s : State) (r : Reg) (v : DWord) (q : FieldNum) : (s.setGpr r v).crField q = s.crField q := rfl
@[simp] theorem State.setGpr_crBit (s : State) (r : Reg) (v : DWord) (q : BitNum) : (s.setGpr r v).crBit q = s.crBit q := rfl
@[simp] theorem State.setGpr_so (s : State) (r : Reg) (v : DWord) : (s.setGpr r v).so = s.so := rfl
@[simp] theorem State.setGpr_ov (s : State) (r : Reg) (v : DWord) : (s.setGpr r v).ov = s.ov := rfl
@[simp] theorem State.setGpr_ca (s : State) (r : Reg) (v : DWord) : (s.setGpr r v).ca = s.ca := rfl
@[simp] theorem State.setGpr_byteCount (s : State) (r : Reg) (v : DWord) : (s.setGpr r v).byteCount = s.byteCount := rfl
@[simp] theorem State.setGpr_free (s : State) (r : Reg) (v : DWord) (k : Nat) : (s.setGpr r v).free k = s.free k := rfl
@[simp] theorem State.setGpr_sa (s : State) (r : Reg) (v : DWord) (x : DWord) : (s.setGpr r v).sa x = s.sa x := rfl
@[simp] theorem State.setGpr_iea (s : State) (r : Reg) (v : DWord) (x : DWord) : (s.setGpr r v).iea x = s.iea x := rfl
@[simp] theorem State.setGpr_littleEndian (s : State) (r : Reg) (v : DWord) : (s.setGpr r v).littleEndian = s.littleEndian := rfl
@[simp] theorem State.setGpr_byteAddr (s : State) (r : Reg) (v : DWord) (ea : DWord) (m i : Nat) : (s.setGpr r v).byteAddr ea m i = s.byteAddr ea m i := rfl
@[simp] theorem State.setGpr_operandAddrs (s : State) (r : Reg) (v : DWord) (ea : DWord) (m : Nat) : (s.setGpr r v).operandAddrs ea m = s.operandAddrs ea m := rfl
@[simp] theorem State.setGpr_checkedAddrs (s : State) (r : Reg) (v : DWord) (ea : DWord) (m : Nat) : (s.setGpr r v).checkedAddrs ea m = s.checkedAddrs ea m := rfl
@[simp] theorem State.setGpr_available (s : State) (r : Reg) (v : DWord) (k : Access) (q : Nat) : (s.setGpr r v).available k q = s.available k q := rfl
@[simp] theorem State.setGpr_ctrZero (s : State) (r : Reg) (v : DWord) : (s.setGpr r v).ctrZero = s.ctrZero := rfl
@[simp] theorem State.setGpr_nonIeee (s : State) (r : Reg) (v : DWord) : (s.setGpr r v).nonIeee = s.nonIeee := rfl
@[simp] theorem State.setGpr_cr0Of (s : State) (r : Reg) (v : DWord) (q : DWord) : (s.setGpr r v).cr0Of q = s.cr0Of q := rfl
@[simp] theorem State.setGpr_nextPc (s : State) (r : Reg) (v : DWord) : (s.setGpr r v).nextPc = s.nextPc := rfl
@[simp] theorem State.setGpr_readFpscr (s : State) (r : Reg) (v : DWord) : (s.setGpr r v).readFpscr = s.readFpscr := rfl
@[simp] theorem State.setGpr_readXer (s : State) (r : Reg) (v : DWord) : (s.setGpr r v).readXer = s.readXer := rfl

@[simp] theorem State.setFpr_gpr (s : State) (r : Reg) (v : DWord) (b : Bool) : (s.setFpr r v b).gpr = s.gpr := rfl
@[simp] theorem State.setFpr_fpr (s : State) (r : Reg) (v : DWord) (b : Bool) : (s.setFpr r v b).fpr = s.fpr.set r.toNat v r.isLt := rfl
@[simp] theorem State.setFpr_cr (s : State) (r : Reg) (v : DWord) (b : Bool) : (s.setFpr r v b).cr = s.cr := rfl
@[simp] theorem State.setFpr_lr (s : State) (r : Reg) (v : DWord) (b : Bool) : (s.setFpr r v b).lr = s.lr := rfl
@[simp] theorem State.setFpr_ctr (s : State) (r : Reg) (v : DWord) (b : Bool) : (s.setFpr r v b).ctr = s.ctr := rfl
@[simp] theorem State.setFpr_xer (s : State) (r : Reg) (v : DWord) (b : Bool) : (s.setFpr r v b).xer = s.xer := rfl
@[simp] theorem State.setFpr_fpscr (s : State) (r : Reg) (v : DWord) (b : Bool) : (s.setFpr r v b).fpscr = s.fpscr := rfl
@[simp] theorem State.setFpr_pc (s : State) (r : Reg) (v : DWord) (b : Bool) : (s.setFpr r v b).pc = s.pc := rfl
@[simp] theorem State.setFpr_le (s : State) (r : Reg) (v : DWord) (b : Bool) : (s.setFpr r v b).le = s.le := rfl
@[simp] theorem State.setFpr_ile (s : State) (r : Reg) (v : DWord) (b : Bool) : (s.setFpr r v b).ile = s.ile := rfl
@[simp] theorem State.setFpr_mem (s : State) (r : Reg) (v : DWord) (b : Bool) : (s.setFpr r v b).mem = s.mem := rfl
@[simp] theorem State.setFpr_params (s : State) (r : Reg) (v : DWord) (b : Bool) : (s.setFpr r v b).params = s.params := rfl
@[simp] theorem State.setFpr_modified (s : State) (r : Reg) (v : DWord) (b : Bool) : (s.setFpr r v b).modified = s.modified := rfl
@[simp] theorem State.setFpr_fprSingle (s : State) (r : Reg) (v : DWord) (b : Bool) : (s.setFpr r v b).fprSingle = s.fprSingle.set r.toNat b r.isLt := rfl
@[simp] theorem State.setFpr_draws (s : State) (r : Reg) (v : DWord) (b : Bool) : (s.setFpr r v b).draws = s.draws := rfl
@[simp] theorem State.setFpr_outcome (s : State) (r : Reg) (v : DWord) (b : Bool) : (s.setFpr r v b).outcome = s.outcome := rfl

@[simp] theorem State.setFpr_readGpr (s : State) (r : Reg) (v : DWord) (b : Bool) (q : Reg) : (s.setFpr r v b).readGpr q = s.readGpr q := rfl
@[simp] theorem State.setFpr_readByte (s : State) (r : Reg) (v : DWord) (b : Bool) (q : Nat) : (s.setFpr r v b).readByte q = s.readByte q := rfl
@[simp] theorem State.setFpr_crField (s : State) (r : Reg) (v : DWord) (b : Bool) (q : FieldNum) : (s.setFpr r v b).crField q = s.crField q := rfl
@[simp] theorem State.setFpr_crBit (s : State) (r : Reg) (v : DWord) (b : Bool) (q : BitNum) : (s.setFpr r v b).crBit q = s.crBit q := rfl
@[simp] theorem State.setFpr_so (s : State) (r : Reg) (v : DWord) (b : Bool) : (s.setFpr r v b).so = s.so := rfl
@[simp] theorem State.setFpr_ov (s : State) (r : Reg) (v : DWord) (b : Bool) : (s.setFpr r v b).ov = s.ov := rfl
@[simp] theorem State.setFpr_ca (s : State) (r : Reg) (v : DWord) (b : Bool) : (s.setFpr r v b).ca = s.ca := rfl
@[simp] theorem State.setFpr_byteCount (s : State) (r : Reg) (v : DWord) (b : Bool) : (s.setFpr r v b).byteCount = s.byteCount := rfl
@[simp] theorem State.setFpr_free (s : State) (r : Reg) (v : DWord) (b : Bool) (k : Nat) : (s.setFpr r v b).free k = s.free k := rfl
@[simp] theorem State.setFpr_sa (s : State) (r : Reg) (v : DWord) (b : Bool) (x : DWord) : (s.setFpr r v b).sa x = s.sa x := rfl
@[simp] theorem State.setFpr_iea (s : State) (r : Reg) (v : DWord) (b : Bool) (x : DWord) : (s.setFpr r v b).iea x = s.iea x := rfl
@[simp] theorem State.setFpr_littleEndian (s : State) (r : Reg) (v : DWord) (b : Bool) : (s.setFpr r v b).littleEndian = s.littleEndian := rfl
@[simp] theorem State.setFpr_byteAddr (s : State) (r : Reg) (v : DWord) (b : Bool) (ea : DWord) (m i : Nat) : (s.setFpr r v b).byteAddr ea m i = s.byteAddr ea m i := rfl
@[simp] theorem State.setFpr_operandAddrs (s : State) (r : Reg) (v : DWord) (b : Bool) (ea : DWord) (m : Nat) : (s.setFpr r v b).operandAddrs ea m = s.operandAddrs ea m := rfl
@[simp] theorem State.setFpr_checkedAddrs (s : State) (r : Reg) (v : DWord) (b : Bool) (ea : DWord) (m : Nat) : (s.setFpr r v b).checkedAddrs ea m = s.checkedAddrs ea m := rfl
@[simp] theorem State.setFpr_available (s : State) (r : Reg) (v : DWord) (b : Bool) (k : Access) (q : Nat) : (s.setFpr r v b).available k q = s.available k q := rfl
@[simp] theorem State.setFpr_ctrZero (s : State) (r : Reg) (v : DWord) (b : Bool) : (s.setFpr r v b).ctrZero = s.ctrZero := rfl
@[simp] theorem State.setFpr_nonIeee (s : State) (r : Reg) (v : DWord) (b : Bool) : (s.setFpr r v b).nonIeee = s.nonIeee := rfl
@[simp] theorem State.setFpr_cr0Of (s : State) (r : Reg) (v : DWord) (b : Bool) (q : DWord) : (s.setFpr r v b).cr0Of q = s.cr0Of q := rfl
@[simp] theorem State.setFpr_nextPc (s : State) (r : Reg) (v : DWord) (b : Bool) : (s.setFpr r v b).nextPc = s.nextPc := rfl
@[simp] theorem State.setFpr_readFpscr (s : State) (r : Reg) (v : DWord) (b : Bool) : (s.setFpr r v b).readFpscr = s.readFpscr := rfl
@[simp] theorem State.setFpr_readXer (s : State) (r : Reg) (v : DWord) (b : Bool) : (s.setFpr r v b).readXer = s.readXer := rfl

@[simp] theorem State.setCr_gpr (s : State) (v : Word) : (s.setCr v).gpr = s.gpr := rfl
@[simp] theorem State.setCr_fpr (s : State) (v : Word) : (s.setCr v).fpr = s.fpr := rfl
@[simp] theorem State.setCr_cr (s : State) (v : Word) : (s.setCr v).cr = v := rfl
@[simp] theorem State.setCr_lr (s : State) (v : Word) : (s.setCr v).lr = s.lr := rfl
@[simp] theorem State.setCr_ctr (s : State) (v : Word) : (s.setCr v).ctr = s.ctr := rfl
@[simp] theorem State.setCr_xer (s : State) (v : Word) : (s.setCr v).xer = s.xer := rfl
@[simp] theorem State.setCr_fpscr (s : State) (v : Word) : (s.setCr v).fpscr = s.fpscr := rfl
@[simp] theorem State.setCr_pc (s : State) (v : Word) : (s.setCr v).pc = s.pc := rfl
@[simp] theorem State.setCr_le (s : State) (v : Word) : (s.setCr v).le = s.le := rfl
@[simp] theorem State.setCr_ile (s : State) (v : Word) : (s.setCr v).ile = s.ile := rfl
@[simp] theorem State.setCr_mem (s : State) (v : Word) : (s.setCr v).mem = s.mem := rfl
@[simp] theorem State.setCr_params (s : State) (v : Word) : (s.setCr v).params = s.params := rfl
@[simp] theorem State.setCr_modified (s : State) (v : Word) : (s.setCr v).modified = s.modified := rfl
@[simp] theorem State.setCr_fprSingle (s : State) (v : Word) : (s.setCr v).fprSingle = s.fprSingle := rfl
@[simp] theorem State.setCr_draws (s : State) (v : Word) : (s.setCr v).draws = s.draws := rfl
@[simp] theorem State.setCr_outcome (s : State) (v : Word) : (s.setCr v).outcome = s.outcome := rfl

@[simp] theorem State.setCr_readGpr (s : State) (v : Word) (q : Reg) : (s.setCr v).readGpr q = s.readGpr q := rfl
@[simp] theorem State.setCr_readFpr (s : State) (v : Word) (q : Reg) : (s.setCr v).readFpr q = s.readFpr q := rfl
@[simp] theorem State.setCr_isSingle (s : State) (v : Word) (q : Reg) : (s.setCr v).isSingle q = s.isSingle q := rfl
@[simp] theorem State.setCr_readByte (s : State) (v : Word) (q : Nat) : (s.setCr v).readByte q = s.readByte q := rfl
@[simp] theorem State.setCr_so (s : State) (v : Word) : (s.setCr v).so = s.so := rfl
@[simp] theorem State.setCr_ov (s : State) (v : Word) : (s.setCr v).ov = s.ov := rfl
@[simp] theorem State.setCr_ca (s : State) (v : Word) : (s.setCr v).ca = s.ca := rfl
@[simp] theorem State.setCr_byteCount (s : State) (v : Word) : (s.setCr v).byteCount = s.byteCount := rfl
@[simp] theorem State.setCr_free (s : State) (v : Word) (k : Nat) : (s.setCr v).free k = s.free k := rfl
@[simp] theorem State.setCr_sa (s : State) (v : Word) (x : DWord) : (s.setCr v).sa x = s.sa x := rfl
@[simp] theorem State.setCr_iea (s : State) (v : Word) (x : DWord) : (s.setCr v).iea x = s.iea x := rfl
@[simp] theorem State.setCr_littleEndian (s : State) (v : Word) : (s.setCr v).littleEndian = s.littleEndian := rfl
@[simp] theorem State.setCr_byteAddr (s : State) (v : Word) (ea : DWord) (m i : Nat) : (s.setCr v).byteAddr ea m i = s.byteAddr ea m i := rfl
@[simp] theorem State.setCr_operandAddrs (s : State) (v : Word) (ea : DWord) (m : Nat) : (s.setCr v).operandAddrs ea m = s.operandAddrs ea m := rfl
@[simp] theorem State.setCr_checkedAddrs (s : State) (v : Word) (ea : DWord) (m : Nat) : (s.setCr v).checkedAddrs ea m = s.checkedAddrs ea m := rfl
@[simp] theorem State.setCr_available (s : State) (v : Word) (k : Access) (q : Nat) : (s.setCr v).available k q = s.available k q := rfl
@[simp] theorem State.setCr_ctrZero (s : State) (v : Word) : (s.setCr v).ctrZero = s.ctrZero := rfl
@[simp] theorem State.setCr_nonIeee (s : State) (v : Word) : (s.setCr v).nonIeee = s.nonIeee := rfl
@[simp] theorem State.setCr_cr0Of (s : State) (v : Word) (q : DWord) : (s.setCr v).cr0Of q = s.cr0Of q := rfl
@[simp] theorem State.setCr_nextPc (s : State) (v : Word) : (s.setCr v).nextPc = s.nextPc := rfl
@[simp] theorem State.setCr_readFpscr (s : State) (v : Word) : (s.setCr v).readFpscr = s.readFpscr := rfl
@[simp] theorem State.setCr_readXer (s : State) (v : Word) : (s.setCr v).readXer = s.readXer := rfl

@[simp] theorem State.setLr_gpr (s : State) (v : DWord) : (s.setLr v).gpr = s.gpr := rfl
@[simp] theorem State.setLr_fpr (s : State) (v : DWord) : (s.setLr v).fpr = s.fpr := rfl
@[simp] theorem State.setLr_cr (s : State) (v : DWord) : (s.setLr v).cr = s.cr := rfl
@[simp] theorem State.setLr_lr (s : State) (v : DWord) : (s.setLr v).lr = v := rfl
@[simp] theorem State.setLr_ctr (s : State) (v : DWord) : (s.setLr v).ctr = s.ctr := rfl
@[simp] theorem State.setLr_xer (s : State) (v : DWord) : (s.setLr v).xer = s.xer := rfl
@[simp] theorem State.setLr_fpscr (s : State) (v : DWord) : (s.setLr v).fpscr = s.fpscr := rfl
@[simp] theorem State.setLr_pc (s : State) (v : DWord) : (s.setLr v).pc = s.pc := rfl
@[simp] theorem State.setLr_le (s : State) (v : DWord) : (s.setLr v).le = s.le := rfl
@[simp] theorem State.setLr_ile (s : State) (v : DWord) : (s.setLr v).ile = s.ile := rfl
@[simp] theorem State.setLr_mem (s : State) (v : DWord) : (s.setLr v).mem = s.mem := rfl
@[simp] theorem State.setLr_params (s : State) (v : DWord) : (s.setLr v).params = s.params := rfl
@[simp] theorem State.setLr_modified (s : State) (v : DWord) : (s.setLr v).modified = s.modified := rfl
@[simp] theorem State.setLr_fprSingle (s : State) (v : DWord) : (s.setLr v).fprSingle = s.fprSingle := rfl
@[simp] theorem State.setLr_draws (s : State) (v : DWord) : (s.setLr v).draws = s.draws := rfl
@[simp] theorem State.setLr_outcome (s : State) (v : DWord) : (s.setLr v).outcome = s.outcome := rfl

@[simp] theorem State.setLr_readGpr (s : State) (v : DWord) (q : Reg) : (s.setLr v).readGpr q = s.readGpr q := rfl
@[simp] theorem State.setLr_readFpr (s : State) (v : DWord) (q : Reg) : (s.setLr v).readFpr q = s.readFpr q := rfl
@[simp] theorem State.setLr_isSingle (s : State) (v : DWord) (q : Reg) : (s.setLr v).isSingle q = s.isSingle q := rfl
@[simp] theorem State.setLr_readByte (s : State) (v : DWord) (q : Nat) : (s.setLr v).readByte q = s.readByte q := rfl
@[simp] theorem State.setLr_crField (s : State) (v : DWord) (q : FieldNum) : (s.setLr v).crField q = s.crField q := rfl
@[simp] theorem State.setLr_crBit (s : State) (v : DWord) (q : BitNum) : (s.setLr v).crBit q = s.crBit q := rfl
@[simp] theorem State.setLr_so (s : State) (v : DWord) : (s.setLr v).so = s.so := rfl
@[simp] theorem State.setLr_ov (s : State) (v : DWord) : (s.setLr v).ov = s.ov := rfl
@[simp] theorem State.setLr_ca (s : State) (v : DWord) : (s.setLr v).ca = s.ca := rfl
@[simp] theorem State.setLr_byteCount (s : State) (v : DWord) : (s.setLr v).byteCount = s.byteCount := rfl
@[simp] theorem State.setLr_free (s : State) (v : DWord) (k : Nat) : (s.setLr v).free k = s.free k := rfl
@[simp] theorem State.setLr_sa (s : State) (v : DWord) (x : DWord) : (s.setLr v).sa x = s.sa x := rfl
@[simp] theorem State.setLr_iea (s : State) (v : DWord) (x : DWord) : (s.setLr v).iea x = s.iea x := rfl
@[simp] theorem State.setLr_littleEndian (s : State) (v : DWord) : (s.setLr v).littleEndian = s.littleEndian := rfl
@[simp] theorem State.setLr_byteAddr (s : State) (v : DWord) (ea : DWord) (m i : Nat) : (s.setLr v).byteAddr ea m i = s.byteAddr ea m i := rfl
@[simp] theorem State.setLr_operandAddrs (s : State) (v : DWord) (ea : DWord) (m : Nat) : (s.setLr v).operandAddrs ea m = s.operandAddrs ea m := rfl
@[simp] theorem State.setLr_checkedAddrs (s : State) (v : DWord) (ea : DWord) (m : Nat) : (s.setLr v).checkedAddrs ea m = s.checkedAddrs ea m := rfl
@[simp] theorem State.setLr_available (s : State) (v : DWord) (k : Access) (q : Nat) : (s.setLr v).available k q = s.available k q := rfl
@[simp] theorem State.setLr_ctrZero (s : State) (v : DWord) : (s.setLr v).ctrZero = s.ctrZero := rfl
@[simp] theorem State.setLr_nonIeee (s : State) (v : DWord) : (s.setLr v).nonIeee = s.nonIeee := rfl
@[simp] theorem State.setLr_cr0Of (s : State) (v : DWord) (q : DWord) : (s.setLr v).cr0Of q = s.cr0Of q := rfl
@[simp] theorem State.setLr_nextPc (s : State) (v : DWord) : (s.setLr v).nextPc = s.nextPc := rfl
@[simp] theorem State.setLr_readFpscr (s : State) (v : DWord) : (s.setLr v).readFpscr = s.readFpscr := rfl
@[simp] theorem State.setLr_readXer (s : State) (v : DWord) : (s.setLr v).readXer = s.readXer := rfl

@[simp] theorem State.setCtr_gpr (s : State) (v : DWord) : (s.setCtr v).gpr = s.gpr := rfl
@[simp] theorem State.setCtr_fpr (s : State) (v : DWord) : (s.setCtr v).fpr = s.fpr := rfl
@[simp] theorem State.setCtr_cr (s : State) (v : DWord) : (s.setCtr v).cr = s.cr := rfl
@[simp] theorem State.setCtr_lr (s : State) (v : DWord) : (s.setCtr v).lr = s.lr := rfl
@[simp] theorem State.setCtr_ctr (s : State) (v : DWord) : (s.setCtr v).ctr = v := rfl
@[simp] theorem State.setCtr_xer (s : State) (v : DWord) : (s.setCtr v).xer = s.xer := rfl
@[simp] theorem State.setCtr_fpscr (s : State) (v : DWord) : (s.setCtr v).fpscr = s.fpscr := rfl
@[simp] theorem State.setCtr_pc (s : State) (v : DWord) : (s.setCtr v).pc = s.pc := rfl
@[simp] theorem State.setCtr_le (s : State) (v : DWord) : (s.setCtr v).le = s.le := rfl
@[simp] theorem State.setCtr_ile (s : State) (v : DWord) : (s.setCtr v).ile = s.ile := rfl
@[simp] theorem State.setCtr_mem (s : State) (v : DWord) : (s.setCtr v).mem = s.mem := rfl
@[simp] theorem State.setCtr_params (s : State) (v : DWord) : (s.setCtr v).params = s.params := rfl
@[simp] theorem State.setCtr_modified (s : State) (v : DWord) : (s.setCtr v).modified = s.modified := rfl
@[simp] theorem State.setCtr_fprSingle (s : State) (v : DWord) : (s.setCtr v).fprSingle = s.fprSingle := rfl
@[simp] theorem State.setCtr_draws (s : State) (v : DWord) : (s.setCtr v).draws = s.draws := rfl
@[simp] theorem State.setCtr_outcome (s : State) (v : DWord) : (s.setCtr v).outcome = s.outcome := rfl

@[simp] theorem State.setCtr_readGpr (s : State) (v : DWord) (q : Reg) : (s.setCtr v).readGpr q = s.readGpr q := rfl
@[simp] theorem State.setCtr_readFpr (s : State) (v : DWord) (q : Reg) : (s.setCtr v).readFpr q = s.readFpr q := rfl
@[simp] theorem State.setCtr_isSingle (s : State) (v : DWord) (q : Reg) : (s.setCtr v).isSingle q = s.isSingle q := rfl
@[simp] theorem State.setCtr_readByte (s : State) (v : DWord) (q : Nat) : (s.setCtr v).readByte q = s.readByte q := rfl
@[simp] theorem State.setCtr_crField (s : State) (v : DWord) (q : FieldNum) : (s.setCtr v).crField q = s.crField q := rfl
@[simp] theorem State.setCtr_crBit (s : State) (v : DWord) (q : BitNum) : (s.setCtr v).crBit q = s.crBit q := rfl
@[simp] theorem State.setCtr_so (s : State) (v : DWord) : (s.setCtr v).so = s.so := rfl
@[simp] theorem State.setCtr_ov (s : State) (v : DWord) : (s.setCtr v).ov = s.ov := rfl
@[simp] theorem State.setCtr_ca (s : State) (v : DWord) : (s.setCtr v).ca = s.ca := rfl
@[simp] theorem State.setCtr_byteCount (s : State) (v : DWord) : (s.setCtr v).byteCount = s.byteCount := rfl
@[simp] theorem State.setCtr_free (s : State) (v : DWord) (k : Nat) : (s.setCtr v).free k = s.free k := rfl
@[simp] theorem State.setCtr_sa (s : State) (v : DWord) (x : DWord) : (s.setCtr v).sa x = s.sa x := rfl
@[simp] theorem State.setCtr_iea (s : State) (v : DWord) (x : DWord) : (s.setCtr v).iea x = s.iea x := rfl
@[simp] theorem State.setCtr_littleEndian (s : State) (v : DWord) : (s.setCtr v).littleEndian = s.littleEndian := rfl
@[simp] theorem State.setCtr_byteAddr (s : State) (v : DWord) (ea : DWord) (m i : Nat) : (s.setCtr v).byteAddr ea m i = s.byteAddr ea m i := rfl
@[simp] theorem State.setCtr_operandAddrs (s : State) (v : DWord) (ea : DWord) (m : Nat) : (s.setCtr v).operandAddrs ea m = s.operandAddrs ea m := rfl
@[simp] theorem State.setCtr_checkedAddrs (s : State) (v : DWord) (ea : DWord) (m : Nat) : (s.setCtr v).checkedAddrs ea m = s.checkedAddrs ea m := rfl
@[simp] theorem State.setCtr_available (s : State) (v : DWord) (k : Access) (q : Nat) : (s.setCtr v).available k q = s.available k q := rfl
@[simp] theorem State.setCtr_nonIeee (s : State) (v : DWord) : (s.setCtr v).nonIeee = s.nonIeee := rfl
@[simp] theorem State.setCtr_cr0Of (s : State) (v : DWord) (q : DWord) : (s.setCtr v).cr0Of q = s.cr0Of q := rfl
@[simp] theorem State.setCtr_nextPc (s : State) (v : DWord) : (s.setCtr v).nextPc = s.nextPc := rfl
@[simp] theorem State.setCtr_readFpscr (s : State) (v : DWord) : (s.setCtr v).readFpscr = s.readFpscr := rfl
@[simp] theorem State.setCtr_readXer (s : State) (v : DWord) : (s.setCtr v).readXer = s.readXer := rfl

@[simp] theorem State.setXer_gpr (s : State) (v : DWord) : (s.setXer v).gpr = s.gpr := rfl
@[simp] theorem State.setXer_fpr (s : State) (v : DWord) : (s.setXer v).fpr = s.fpr := rfl
@[simp] theorem State.setXer_cr (s : State) (v : DWord) : (s.setXer v).cr = s.cr := rfl
@[simp] theorem State.setXer_lr (s : State) (v : DWord) : (s.setXer v).lr = s.lr := rfl
@[simp] theorem State.setXer_ctr (s : State) (v : DWord) : (s.setXer v).ctr = s.ctr := rfl
@[simp] theorem State.setXer_xer (s : State) (v : DWord) : (s.setXer v).xer = v := rfl
@[simp] theorem State.setXer_fpscr (s : State) (v : DWord) : (s.setXer v).fpscr = s.fpscr := rfl
@[simp] theorem State.setXer_pc (s : State) (v : DWord) : (s.setXer v).pc = s.pc := rfl
@[simp] theorem State.setXer_le (s : State) (v : DWord) : (s.setXer v).le = s.le := rfl
@[simp] theorem State.setXer_ile (s : State) (v : DWord) : (s.setXer v).ile = s.ile := rfl
@[simp] theorem State.setXer_mem (s : State) (v : DWord) : (s.setXer v).mem = s.mem := rfl
@[simp] theorem State.setXer_params (s : State) (v : DWord) : (s.setXer v).params = s.params := rfl
@[simp] theorem State.setXer_modified (s : State) (v : DWord) : (s.setXer v).modified = s.modified := rfl
@[simp] theorem State.setXer_fprSingle (s : State) (v : DWord) : (s.setXer v).fprSingle = s.fprSingle := rfl
@[simp] theorem State.setXer_draws (s : State) (v : DWord) : (s.setXer v).draws = s.draws := rfl
@[simp] theorem State.setXer_outcome (s : State) (v : DWord) : (s.setXer v).outcome = s.outcome := rfl

@[simp] theorem State.setXer_readGpr (s : State) (v : DWord) (q : Reg) : (s.setXer v).readGpr q = s.readGpr q := rfl
@[simp] theorem State.setXer_readFpr (s : State) (v : DWord) (q : Reg) : (s.setXer v).readFpr q = s.readFpr q := rfl
@[simp] theorem State.setXer_isSingle (s : State) (v : DWord) (q : Reg) : (s.setXer v).isSingle q = s.isSingle q := rfl
@[simp] theorem State.setXer_readByte (s : State) (v : DWord) (q : Nat) : (s.setXer v).readByte q = s.readByte q := rfl
@[simp] theorem State.setXer_crField (s : State) (v : DWord) (q : FieldNum) : (s.setXer v).crField q = s.crField q := rfl
@[simp] theorem State.setXer_crBit (s : State) (v : DWord) (q : BitNum) : (s.setXer v).crBit q = s.crBit q := rfl
@[simp] theorem State.setXer_free (s : State) (v : DWord) (k : Nat) : (s.setXer v).free k = s.free k := rfl
@[simp] theorem State.setXer_sa (s : State) (v : DWord) (x : DWord) : (s.setXer v).sa x = s.sa x := rfl
@[simp] theorem State.setXer_iea (s : State) (v : DWord) (x : DWord) : (s.setXer v).iea x = s.iea x := rfl
@[simp] theorem State.setXer_littleEndian (s : State) (v : DWord) : (s.setXer v).littleEndian = s.littleEndian := rfl
@[simp] theorem State.setXer_byteAddr (s : State) (v : DWord) (ea : DWord) (m i : Nat) : (s.setXer v).byteAddr ea m i = s.byteAddr ea m i := rfl
@[simp] theorem State.setXer_operandAddrs (s : State) (v : DWord) (ea : DWord) (m : Nat) : (s.setXer v).operandAddrs ea m = s.operandAddrs ea m := rfl
@[simp] theorem State.setXer_checkedAddrs (s : State) (v : DWord) (ea : DWord) (m : Nat) : (s.setXer v).checkedAddrs ea m = s.checkedAddrs ea m := rfl
@[simp] theorem State.setXer_available (s : State) (v : DWord) (k : Access) (q : Nat) : (s.setXer v).available k q = s.available k q := rfl
@[simp] theorem State.setXer_ctrZero (s : State) (v : DWord) : (s.setXer v).ctrZero = s.ctrZero := rfl
@[simp] theorem State.setXer_nonIeee (s : State) (v : DWord) : (s.setXer v).nonIeee = s.nonIeee := rfl
@[simp] theorem State.setXer_nextPc (s : State) (v : DWord) : (s.setXer v).nextPc = s.nextPc := rfl
@[simp] theorem State.setXer_readFpscr (s : State) (v : DWord) : (s.setXer v).readFpscr = s.readFpscr := rfl

@[simp] theorem State.setFpscr_gpr (s : State) (v : Word) : (s.setFpscr v).gpr = s.gpr := rfl
@[simp] theorem State.setFpscr_fpr (s : State) (v : Word) : (s.setFpscr v).fpr = s.fpr := rfl
@[simp] theorem State.setFpscr_cr (s : State) (v : Word) : (s.setFpscr v).cr = s.cr := rfl
@[simp] theorem State.setFpscr_lr (s : State) (v : Word) : (s.setFpscr v).lr = s.lr := rfl
@[simp] theorem State.setFpscr_ctr (s : State) (v : Word) : (s.setFpscr v).ctr = s.ctr := rfl
@[simp] theorem State.setFpscr_xer (s : State) (v : Word) : (s.setFpscr v).xer = s.xer := rfl
@[simp] theorem State.setFpscr_fpscr (s : State) (v : Word) : (s.setFpscr v).fpscr = v := rfl
@[simp] theorem State.setFpscr_pc (s : State) (v : Word) : (s.setFpscr v).pc = s.pc := rfl
@[simp] theorem State.setFpscr_le (s : State) (v : Word) : (s.setFpscr v).le = s.le := rfl
@[simp] theorem State.setFpscr_ile (s : State) (v : Word) : (s.setFpscr v).ile = s.ile := rfl
@[simp] theorem State.setFpscr_mem (s : State) (v : Word) : (s.setFpscr v).mem = s.mem := rfl
@[simp] theorem State.setFpscr_params (s : State) (v : Word) : (s.setFpscr v).params = s.params := rfl
@[simp] theorem State.setFpscr_modified (s : State) (v : Word) : (s.setFpscr v).modified = s.modified := rfl
@[simp] theorem State.setFpscr_fprSingle (s : State) (v : Word) : (s.setFpscr v).fprSingle = s.fprSingle := rfl
@[simp] theorem State.setFpscr_draws (s : State) (v : Word) : (s.setFpscr v).draws = s.draws := rfl
@[simp] theorem State.setFpscr_outcome (s : State) (v : Word) : (s.setFpscr v).outcome = s.outcome := rfl

@[simp] theorem State.setFpscr_readGpr (s : State) (v : Word) (q : Reg) : (s.setFpscr v).readGpr q = s.readGpr q := rfl
@[simp] theorem State.setFpscr_readFpr (s : State) (v : Word) (q : Reg) : (s.setFpscr v).readFpr q = s.readFpr q := rfl
@[simp] theorem State.setFpscr_isSingle (s : State) (v : Word) (q : Reg) : (s.setFpscr v).isSingle q = s.isSingle q := rfl
@[simp] theorem State.setFpscr_readByte (s : State) (v : Word) (q : Nat) : (s.setFpscr v).readByte q = s.readByte q := rfl
@[simp] theorem State.setFpscr_crField (s : State) (v : Word) (q : FieldNum) : (s.setFpscr v).crField q = s.crField q := rfl
@[simp] theorem State.setFpscr_crBit (s : State) (v : Word) (q : BitNum) : (s.setFpscr v).crBit q = s.crBit q := rfl
@[simp] theorem State.setFpscr_so (s : State) (v : Word) : (s.setFpscr v).so = s.so := rfl
@[simp] theorem State.setFpscr_ov (s : State) (v : Word) : (s.setFpscr v).ov = s.ov := rfl
@[simp] theorem State.setFpscr_ca (s : State) (v : Word) : (s.setFpscr v).ca = s.ca := rfl
@[simp] theorem State.setFpscr_byteCount (s : State) (v : Word) : (s.setFpscr v).byteCount = s.byteCount := rfl
@[simp] theorem State.setFpscr_free (s : State) (v : Word) (k : Nat) : (s.setFpscr v).free k = s.free k := rfl
@[simp] theorem State.setFpscr_sa (s : State) (v : Word) (x : DWord) : (s.setFpscr v).sa x = s.sa x := rfl
@[simp] theorem State.setFpscr_iea (s : State) (v : Word) (x : DWord) : (s.setFpscr v).iea x = s.iea x := rfl
@[simp] theorem State.setFpscr_littleEndian (s : State) (v : Word) : (s.setFpscr v).littleEndian = s.littleEndian := rfl
@[simp] theorem State.setFpscr_byteAddr (s : State) (v : Word) (ea : DWord) (m i : Nat) : (s.setFpscr v).byteAddr ea m i = s.byteAddr ea m i := rfl
@[simp] theorem State.setFpscr_operandAddrs (s : State) (v : Word) (ea : DWord) (m : Nat) : (s.setFpscr v).operandAddrs ea m = s.operandAddrs ea m := rfl
@[simp] theorem State.setFpscr_checkedAddrs (s : State) (v : Word) (ea : DWord) (m : Nat) : (s.setFpscr v).checkedAddrs ea m = s.checkedAddrs ea m := rfl
@[simp] theorem State.setFpscr_available (s : State) (v : Word) (k : Access) (q : Nat) : (s.setFpscr v).available k q = s.available k q := rfl
@[simp] theorem State.setFpscr_ctrZero (s : State) (v : Word) : (s.setFpscr v).ctrZero = s.ctrZero := rfl
@[simp] theorem State.setFpscr_cr0Of (s : State) (v : Word) (q : DWord) : (s.setFpscr v).cr0Of q = s.cr0Of q := rfl
@[simp] theorem State.setFpscr_nextPc (s : State) (v : Word) : (s.setFpscr v).nextPc = s.nextPc := rfl
@[simp] theorem State.setFpscr_readXer (s : State) (v : Word) : (s.setFpscr v).readXer = s.readXer := rfl

@[simp] theorem State.setPc_gpr (s : State) (v : DWord) : (s.setPc v).gpr = s.gpr := rfl
@[simp] theorem State.setPc_fpr (s : State) (v : DWord) : (s.setPc v).fpr = s.fpr := rfl
@[simp] theorem State.setPc_cr (s : State) (v : DWord) : (s.setPc v).cr = s.cr := rfl
@[simp] theorem State.setPc_lr (s : State) (v : DWord) : (s.setPc v).lr = s.lr := rfl
@[simp] theorem State.setPc_ctr (s : State) (v : DWord) : (s.setPc v).ctr = s.ctr := rfl
@[simp] theorem State.setPc_xer (s : State) (v : DWord) : (s.setPc v).xer = s.xer := rfl
@[simp] theorem State.setPc_fpscr (s : State) (v : DWord) : (s.setPc v).fpscr = s.fpscr := rfl
@[simp] theorem State.setPc_pc (s : State) (v : DWord) : (s.setPc v).pc = v := rfl
@[simp] theorem State.setPc_le (s : State) (v : DWord) : (s.setPc v).le = s.le := rfl
@[simp] theorem State.setPc_ile (s : State) (v : DWord) : (s.setPc v).ile = s.ile := rfl
@[simp] theorem State.setPc_mem (s : State) (v : DWord) : (s.setPc v).mem = s.mem := rfl
@[simp] theorem State.setPc_params (s : State) (v : DWord) : (s.setPc v).params = s.params := rfl
@[simp] theorem State.setPc_modified (s : State) (v : DWord) : (s.setPc v).modified = s.modified := rfl
@[simp] theorem State.setPc_fprSingle (s : State) (v : DWord) : (s.setPc v).fprSingle = s.fprSingle := rfl
@[simp] theorem State.setPc_draws (s : State) (v : DWord) : (s.setPc v).draws = s.draws := rfl
@[simp] theorem State.setPc_outcome (s : State) (v : DWord) : (s.setPc v).outcome = s.outcome := rfl

@[simp] theorem State.setPc_readGpr (s : State) (v : DWord) (q : Reg) : (s.setPc v).readGpr q = s.readGpr q := rfl
@[simp] theorem State.setPc_readFpr (s : State) (v : DWord) (q : Reg) : (s.setPc v).readFpr q = s.readFpr q := rfl
@[simp] theorem State.setPc_isSingle (s : State) (v : DWord) (q : Reg) : (s.setPc v).isSingle q = s.isSingle q := rfl
@[simp] theorem State.setPc_readByte (s : State) (v : DWord) (q : Nat) : (s.setPc v).readByte q = s.readByte q := rfl
@[simp] theorem State.setPc_crField (s : State) (v : DWord) (q : FieldNum) : (s.setPc v).crField q = s.crField q := rfl
@[simp] theorem State.setPc_crBit (s : State) (v : DWord) (q : BitNum) : (s.setPc v).crBit q = s.crBit q := rfl
@[simp] theorem State.setPc_so (s : State) (v : DWord) : (s.setPc v).so = s.so := rfl
@[simp] theorem State.setPc_ov (s : State) (v : DWord) : (s.setPc v).ov = s.ov := rfl
@[simp] theorem State.setPc_ca (s : State) (v : DWord) : (s.setPc v).ca = s.ca := rfl
@[simp] theorem State.setPc_byteCount (s : State) (v : DWord) : (s.setPc v).byteCount = s.byteCount := rfl
@[simp] theorem State.setPc_free (s : State) (v : DWord) (k : Nat) : (s.setPc v).free k = s.free k := rfl
@[simp] theorem State.setPc_sa (s : State) (v : DWord) (x : DWord) : (s.setPc v).sa x = s.sa x := rfl
@[simp] theorem State.setPc_iea (s : State) (v : DWord) (x : DWord) : (s.setPc v).iea x = s.iea x := rfl
@[simp] theorem State.setPc_littleEndian (s : State) (v : DWord) : (s.setPc v).littleEndian = s.littleEndian := rfl
@[simp] theorem State.setPc_byteAddr (s : State) (v : DWord) (ea : DWord) (m i : Nat) : (s.setPc v).byteAddr ea m i = s.byteAddr ea m i := rfl
@[simp] theorem State.setPc_operandAddrs (s : State) (v : DWord) (ea : DWord) (m : Nat) : (s.setPc v).operandAddrs ea m = s.operandAddrs ea m := rfl
@[simp] theorem State.setPc_checkedAddrs (s : State) (v : DWord) (ea : DWord) (m : Nat) : (s.setPc v).checkedAddrs ea m = s.checkedAddrs ea m := rfl
@[simp] theorem State.setPc_available (s : State) (v : DWord) (k : Access) (q : Nat) : (s.setPc v).available k q = s.available k q := rfl
@[simp] theorem State.setPc_ctrZero (s : State) (v : DWord) : (s.setPc v).ctrZero = s.ctrZero := rfl
@[simp] theorem State.setPc_nonIeee (s : State) (v : DWord) : (s.setPc v).nonIeee = s.nonIeee := rfl
@[simp] theorem State.setPc_cr0Of (s : State) (v : DWord) (q : DWord) : (s.setPc v).cr0Of q = s.cr0Of q := rfl
@[simp] theorem State.setPc_readFpscr (s : State) (v : DWord) : (s.setPc v).readFpscr = s.readFpscr := rfl
@[simp] theorem State.setPc_readXer (s : State) (v : DWord) : (s.setPc v).readXer = s.readXer := rfl

@[simp] theorem State.drew_gpr (s : State) (n : Nat) : (s.drew n).gpr = s.gpr := rfl
@[simp] theorem State.drew_fpr (s : State) (n : Nat) : (s.drew n).fpr = s.fpr := rfl
@[simp] theorem State.drew_cr (s : State) (n : Nat) : (s.drew n).cr = s.cr := rfl
@[simp] theorem State.drew_lr (s : State) (n : Nat) : (s.drew n).lr = s.lr := rfl
@[simp] theorem State.drew_ctr (s : State) (n : Nat) : (s.drew n).ctr = s.ctr := rfl
@[simp] theorem State.drew_xer (s : State) (n : Nat) : (s.drew n).xer = s.xer := rfl
@[simp] theorem State.drew_fpscr (s : State) (n : Nat) : (s.drew n).fpscr = s.fpscr := rfl
@[simp] theorem State.drew_pc (s : State) (n : Nat) : (s.drew n).pc = s.pc := rfl
@[simp] theorem State.drew_le (s : State) (n : Nat) : (s.drew n).le = s.le := rfl
@[simp] theorem State.drew_ile (s : State) (n : Nat) : (s.drew n).ile = s.ile := rfl
@[simp] theorem State.drew_mem (s : State) (n : Nat) : (s.drew n).mem = s.mem := rfl
@[simp] theorem State.drew_params (s : State) (n : Nat) : (s.drew n).params = s.params := rfl
@[simp] theorem State.drew_modified (s : State) (n : Nat) : (s.drew n).modified = s.modified := rfl
@[simp] theorem State.drew_fprSingle (s : State) (n : Nat) : (s.drew n).fprSingle = s.fprSingle := rfl
@[simp] theorem State.drew_draws (s : State) (n : Nat) : (s.drew n).draws = s.draws + n := rfl
@[simp] theorem State.drew_outcome (s : State) (n : Nat) : (s.drew n).outcome = s.outcome := rfl

@[simp] theorem State.drew_readGpr (s : State) (n : Nat) (q : Reg) : (s.drew n).readGpr q = s.readGpr q := rfl
@[simp] theorem State.drew_readFpr (s : State) (n : Nat) (q : Reg) : (s.drew n).readFpr q = s.readFpr q := rfl
@[simp] theorem State.drew_isSingle (s : State) (n : Nat) (q : Reg) : (s.drew n).isSingle q = s.isSingle q := rfl
@[simp] theorem State.drew_readByte (s : State) (n : Nat) (q : Nat) : (s.drew n).readByte q = s.readByte q := rfl
@[simp] theorem State.drew_crField (s : State) (n : Nat) (q : FieldNum) : (s.drew n).crField q = s.crField q := rfl
@[simp] theorem State.drew_crBit (s : State) (n : Nat) (q : BitNum) : (s.drew n).crBit q = s.crBit q := rfl
@[simp] theorem State.drew_so (s : State) (n : Nat) : (s.drew n).so = s.so := rfl
@[simp] theorem State.drew_ov (s : State) (n : Nat) : (s.drew n).ov = s.ov := rfl
@[simp] theorem State.drew_ca (s : State) (n : Nat) : (s.drew n).ca = s.ca := rfl
@[simp] theorem State.drew_byteCount (s : State) (n : Nat) : (s.drew n).byteCount = s.byteCount := rfl
@[simp] theorem State.drew_sa (s : State) (n : Nat) (x : DWord) : (s.drew n).sa x = s.sa x := rfl
@[simp] theorem State.drew_iea (s : State) (n : Nat) (x : DWord) : (s.drew n).iea x = s.iea x := rfl
@[simp] theorem State.drew_littleEndian (s : State) (n : Nat) : (s.drew n).littleEndian = s.littleEndian := rfl
@[simp] theorem State.drew_byteAddr (s : State) (n : Nat) (ea : DWord) (m i : Nat) : (s.drew n).byteAddr ea m i = s.byteAddr ea m i := rfl
@[simp] theorem State.drew_operandAddrs (s : State) (n : Nat) (ea : DWord) (m : Nat) : (s.drew n).operandAddrs ea m = s.operandAddrs ea m := rfl
@[simp] theorem State.drew_checkedAddrs (s : State) (n : Nat) (ea : DWord) (m : Nat) : (s.drew n).checkedAddrs ea m = s.checkedAddrs ea m := rfl
@[simp] theorem State.drew_available (s : State) (n : Nat) (k : Access) (q : Nat) : (s.drew n).available k q = s.available k q := rfl
@[simp] theorem State.drew_ctrZero (s : State) (n : Nat) : (s.drew n).ctrZero = s.ctrZero := rfl
@[simp] theorem State.drew_nonIeee (s : State) (n : Nat) : (s.drew n).nonIeee = s.nonIeee := rfl
@[simp] theorem State.drew_cr0Of (s : State) (n : Nat) (q : DWord) : (s.drew n).cr0Of q = s.cr0Of q := rfl
@[simp] theorem State.drew_nextPc (s : State) (n : Nat) : (s.drew n).nextPc = s.nextPc := rfl
@[simp] theorem State.drew_readFpscr (s : State) (n : Nat) : (s.drew n).readFpscr = s.readFpscr := rfl
@[simp] theorem State.drew_readXer (s : State) (n : Nat) : (s.drew n).readXer = s.readXer := rfl

@[simp] theorem State.writeByte_gpr (s : State) (a : Nat) (v : Byte) : (s.writeByte a v).gpr = s.gpr := rfl
@[simp] theorem State.writeByte_fpr (s : State) (a : Nat) (v : Byte) : (s.writeByte a v).fpr = s.fpr := rfl
@[simp] theorem State.writeByte_cr (s : State) (a : Nat) (v : Byte) : (s.writeByte a v).cr = s.cr := rfl
@[simp] theorem State.writeByte_lr (s : State) (a : Nat) (v : Byte) : (s.writeByte a v).lr = s.lr := rfl
@[simp] theorem State.writeByte_ctr (s : State) (a : Nat) (v : Byte) : (s.writeByte a v).ctr = s.ctr := rfl
@[simp] theorem State.writeByte_xer (s : State) (a : Nat) (v : Byte) : (s.writeByte a v).xer = s.xer := rfl
@[simp] theorem State.writeByte_fpscr (s : State) (a : Nat) (v : Byte) : (s.writeByte a v).fpscr = s.fpscr := rfl
@[simp] theorem State.writeByte_pc (s : State) (a : Nat) (v : Byte) : (s.writeByte a v).pc = s.pc := rfl
@[simp] theorem State.writeByte_le (s : State) (a : Nat) (v : Byte) : (s.writeByte a v).le = s.le := rfl
@[simp] theorem State.writeByte_ile (s : State) (a : Nat) (v : Byte) : (s.writeByte a v).ile = s.ile := rfl
@[simp] theorem State.writeByte_mem (s : State) (a : Nat) (v : Byte) : (s.writeByte a v).mem = Memory.write s.mem a v := rfl
@[simp] theorem State.writeByte_params (s : State) (a : Nat) (v : Byte) : (s.writeByte a v).params = s.params := rfl
@[simp] theorem State.writeByte_modified (s : State) (a : Nat) (v : Byte) : (s.writeByte a v).modified = insertAddr s.modified a := rfl
@[simp] theorem State.writeByte_fprSingle (s : State) (a : Nat) (v : Byte) : (s.writeByte a v).fprSingle = s.fprSingle := rfl
@[simp] theorem State.writeByte_draws (s : State) (a : Nat) (v : Byte) : (s.writeByte a v).draws = s.draws := rfl
@[simp] theorem State.writeByte_outcome (s : State) (a : Nat) (v : Byte) : (s.writeByte a v).outcome = s.outcome := rfl

@[simp] theorem State.writeByte_readGpr (s : State) (a : Nat) (v : Byte) (q : Reg) : (s.writeByte a v).readGpr q = s.readGpr q := rfl
@[simp] theorem State.writeByte_readFpr (s : State) (a : Nat) (v : Byte) (q : Reg) : (s.writeByte a v).readFpr q = s.readFpr q := rfl
@[simp] theorem State.writeByte_isSingle (s : State) (a : Nat) (v : Byte) (q : Reg) : (s.writeByte a v).isSingle q = s.isSingle q := rfl
@[simp] theorem State.writeByte_crField (s : State) (a : Nat) (v : Byte) (q : FieldNum) : (s.writeByte a v).crField q = s.crField q := rfl
@[simp] theorem State.writeByte_crBit (s : State) (a : Nat) (v : Byte) (q : BitNum) : (s.writeByte a v).crBit q = s.crBit q := rfl
@[simp] theorem State.writeByte_so (s : State) (a : Nat) (v : Byte) : (s.writeByte a v).so = s.so := rfl
@[simp] theorem State.writeByte_ov (s : State) (a : Nat) (v : Byte) : (s.writeByte a v).ov = s.ov := rfl
@[simp] theorem State.writeByte_ca (s : State) (a : Nat) (v : Byte) : (s.writeByte a v).ca = s.ca := rfl
@[simp] theorem State.writeByte_byteCount (s : State) (a : Nat) (v : Byte) : (s.writeByte a v).byteCount = s.byteCount := rfl
@[simp] theorem State.writeByte_free (s : State) (a : Nat) (v : Byte) (k : Nat) : (s.writeByte a v).free k = s.free k := rfl
@[simp] theorem State.writeByte_sa (s : State) (a : Nat) (v : Byte) (x : DWord) : (s.writeByte a v).sa x = s.sa x := rfl
@[simp] theorem State.writeByte_iea (s : State) (a : Nat) (v : Byte) (x : DWord) : (s.writeByte a v).iea x = s.iea x := rfl
@[simp] theorem State.writeByte_littleEndian (s : State) (a : Nat) (v : Byte) : (s.writeByte a v).littleEndian = s.littleEndian := rfl
@[simp] theorem State.writeByte_byteAddr (s : State) (a : Nat) (v : Byte) (ea : DWord) (m i : Nat) : (s.writeByte a v).byteAddr ea m i = s.byteAddr ea m i := rfl
@[simp] theorem State.writeByte_operandAddrs (s : State) (a : Nat) (v : Byte) (ea : DWord) (m : Nat) : (s.writeByte a v).operandAddrs ea m = s.operandAddrs ea m := rfl
@[simp] theorem State.writeByte_checkedAddrs (s : State) (a : Nat) (v : Byte) (ea : DWord) (m : Nat) : (s.writeByte a v).checkedAddrs ea m = s.checkedAddrs ea m := rfl
@[simp] theorem State.writeByte_available (s : State) (a : Nat) (v : Byte) (k : Access) (q : Nat) : (s.writeByte a v).available k q = s.available k q := rfl
@[simp] theorem State.writeByte_ctrZero (s : State) (a : Nat) (v : Byte) : (s.writeByte a v).ctrZero = s.ctrZero := rfl
@[simp] theorem State.writeByte_nonIeee (s : State) (a : Nat) (v : Byte) : (s.writeByte a v).nonIeee = s.nonIeee := rfl
@[simp] theorem State.writeByte_cr0Of (s : State) (a : Nat) (v : Byte) (q : DWord) : (s.writeByte a v).cr0Of q = s.cr0Of q := rfl
@[simp] theorem State.writeByte_nextPc (s : State) (a : Nat) (v : Byte) : (s.writeByte a v).nextPc = s.nextPc := rfl
@[simp] theorem State.writeByte_readFpscr (s : State) (a : Nat) (v : Byte) : (s.writeByte a v).readFpscr = s.readFpscr := rfl
@[simp] theorem State.writeByte_readXer (s : State) (a : Nat) (v : Byte) : (s.writeByte a v).readXer = s.readXer := rfl

@[simp] theorem advance_gpr (s : State) : (advance s).gpr = s.gpr := rfl
@[simp] theorem advance_fpr (s : State) : (advance s).fpr = s.fpr := rfl
@[simp] theorem advance_cr (s : State) : (advance s).cr = s.cr := rfl
@[simp] theorem advance_lr (s : State) : (advance s).lr = s.lr := rfl
@[simp] theorem advance_ctr (s : State) : (advance s).ctr = s.ctr := rfl
@[simp] theorem advance_xer (s : State) : (advance s).xer = s.xer := rfl
@[simp] theorem advance_fpscr (s : State) : (advance s).fpscr = s.fpscr := rfl
@[simp] theorem advance_pc (s : State) : (advance s).pc = s.nextPc := rfl
@[simp] theorem advance_le (s : State) : (advance s).le = s.le := rfl
@[simp] theorem advance_ile (s : State) : (advance s).ile = s.ile := rfl
@[simp] theorem advance_mem (s : State) : (advance s).mem = s.mem := rfl
@[simp] theorem advance_params (s : State) : (advance s).params = s.params := rfl
@[simp] theorem advance_modified (s : State) : (advance s).modified = s.modified := rfl
@[simp] theorem advance_fprSingle (s : State) : (advance s).fprSingle = s.fprSingle := rfl
@[simp] theorem advance_draws (s : State) : (advance s).draws = s.draws := rfl
@[simp] theorem advance_outcome (s : State) : (advance s).outcome = s.outcome := rfl

@[simp] theorem advance_readGpr (s : State) (q : Reg) : (advance s).readGpr q = s.readGpr q := rfl
@[simp] theorem advance_readFpr (s : State) (q : Reg) : (advance s).readFpr q = s.readFpr q := rfl
@[simp] theorem advance_isSingle (s : State) (q : Reg) : (advance s).isSingle q = s.isSingle q := rfl
@[simp] theorem advance_readByte (s : State) (q : Nat) : (advance s).readByte q = s.readByte q := rfl
@[simp] theorem advance_crField (s : State) (q : FieldNum) : (advance s).crField q = s.crField q := rfl
@[simp] theorem advance_crBit (s : State) (q : BitNum) : (advance s).crBit q = s.crBit q := rfl
@[simp] theorem advance_so (s : State) : (advance s).so = s.so := rfl
@[simp] theorem advance_ov (s : State) : (advance s).ov = s.ov := rfl
@[simp] theorem advance_ca (s : State) : (advance s).ca = s.ca := rfl
@[simp] theorem advance_byteCount (s : State) : (advance s).byteCount = s.byteCount := rfl
@[simp] theorem advance_free (s : State) (k : Nat) : (advance s).free k = s.free k := rfl
@[simp] theorem advance_sa (s : State) (x : DWord) : (advance s).sa x = s.sa x := rfl
@[simp] theorem advance_iea (s : State) (x : DWord) : (advance s).iea x = s.iea x := rfl
@[simp] theorem advance_littleEndian (s : State) : (advance s).littleEndian = s.littleEndian := rfl
@[simp] theorem advance_byteAddr (s : State) (ea : DWord) (m i : Nat) : (advance s).byteAddr ea m i = s.byteAddr ea m i := rfl
@[simp] theorem advance_operandAddrs (s : State) (ea : DWord) (m : Nat) : (advance s).operandAddrs ea m = s.operandAddrs ea m := rfl
@[simp] theorem advance_checkedAddrs (s : State) (ea : DWord) (m : Nat) : (advance s).checkedAddrs ea m = s.checkedAddrs ea m := rfl
@[simp] theorem advance_available (s : State) (k : Access) (q : Nat) : (advance s).available k q = s.available k q := rfl
@[simp] theorem advance_ctrZero (s : State) : (advance s).ctrZero = s.ctrZero := rfl
@[simp] theorem advance_nonIeee (s : State) : (advance s).nonIeee = s.nonIeee := rfl
@[simp] theorem advance_cr0Of (s : State) (q : DWord) : (advance s).cr0Of q = s.cr0Of q := rfl
@[simp] theorem advance_readFpscr (s : State) : (advance s).readFpscr = s.readFpscr := rfl
@[simp] theorem advance_readXer (s : State) : (advance s).readXer = s.readXer := rfl

end Sys2Proof.Machine
end

