-- ==== Sys2Proof/Laws/Storage.lean ====
section
/-! SUPPORT. Storage operands: the addresses of a scalar's bytes, what a store changes, what a load finds, and the fields a
store or a run of register writes leaves alone. -/
namespace Sys2Proof.Machine

set_option Elab.async false

@[simp] theorem State.storeBytes_gpr (s : State) (as : List Nat) (bs : List Byte) : (s.storeBytes as bs).gpr = s.gpr := by
  induction as generalizing s bs with
  | nil => rfl
  | cons a as ih => cases bs with
    | nil => rfl
    | cons b bs => exact ih _ _

@[simp] theorem State.storeValue_gpr (s : State) (ea : DWord) (n : Nat) (v : DWord) : (s.storeValue ea n v).gpr = s.gpr := by
  simp [State.storeValue]

@[simp] theorem State.storeValues_gpr (s : State) (w : Nat) (eas vs : List DWord) : (s.storeValues w eas vs).gpr = s.gpr := by
  induction eas generalizing s vs with
  | nil => rfl
  | cons a as ih => cases vs with
    | nil => rfl
    | cons b bs => simp [State.storeValues, ih]

@[simp] theorem State.storeBytes_fpr (s : State) (as : List Nat) (bs : List Byte) : (s.storeBytes as bs).fpr = s.fpr := by
  induction as generalizing s bs with
  | nil => rfl
  | cons a as ih => cases bs with
    | nil => rfl
    | cons b bs => exact ih _ _

@[simp] theorem State.storeValue_fpr (s : State) (ea : DWord) (n : Nat) (v : DWord) : (s.storeValue ea n v).fpr = s.fpr := by
  simp [State.storeValue]

@[simp] theorem State.storeValues_fpr (s : State) (w : Nat) (eas vs : List DWord) : (s.storeValues w eas vs).fpr = s.fpr := by
  induction eas generalizing s vs with
  | nil => rfl
  | cons a as ih => cases vs with
    | nil => rfl
    | cons b bs => simp [State.storeValues, ih]

@[simp] theorem State.storeBytes_cr (s : State) (as : List Nat) (bs : List Byte) : (s.storeBytes as bs).cr = s.cr := by
  induction as generalizing s bs with
  | nil => rfl
  | cons a as ih => cases bs with
    | nil => rfl
    | cons b bs => exact ih _ _

@[simp] theorem State.storeValue_cr (s : State) (ea : DWord) (n : Nat) (v : DWord) : (s.storeValue ea n v).cr = s.cr := by
  simp [State.storeValue]

@[simp] theorem State.storeValues_cr (s : State) (w : Nat) (eas vs : List DWord) : (s.storeValues w eas vs).cr = s.cr := by
  induction eas generalizing s vs with
  | nil => rfl
  | cons a as ih => cases vs with
    | nil => rfl
    | cons b bs => simp [State.storeValues, ih]

@[simp] theorem State.storeBytes_lr (s : State) (as : List Nat) (bs : List Byte) : (s.storeBytes as bs).lr = s.lr := by
  induction as generalizing s bs with
  | nil => rfl
  | cons a as ih => cases bs with
    | nil => rfl
    | cons b bs => exact ih _ _

@[simp] theorem State.storeValue_lr (s : State) (ea : DWord) (n : Nat) (v : DWord) : (s.storeValue ea n v).lr = s.lr := by
  simp [State.storeValue]

@[simp] theorem State.storeValues_lr (s : State) (w : Nat) (eas vs : List DWord) : (s.storeValues w eas vs).lr = s.lr := by
  induction eas generalizing s vs with
  | nil => rfl
  | cons a as ih => cases vs with
    | nil => rfl
    | cons b bs => simp [State.storeValues, ih]

@[simp] theorem State.storeBytes_ctr (s : State) (as : List Nat) (bs : List Byte) : (s.storeBytes as bs).ctr = s.ctr := by
  induction as generalizing s bs with
  | nil => rfl
  | cons a as ih => cases bs with
    | nil => rfl
    | cons b bs => exact ih _ _

@[simp] theorem State.storeValue_ctr (s : State) (ea : DWord) (n : Nat) (v : DWord) : (s.storeValue ea n v).ctr = s.ctr := by
  simp [State.storeValue]

@[simp] theorem State.storeValues_ctr (s : State) (w : Nat) (eas vs : List DWord) : (s.storeValues w eas vs).ctr = s.ctr := by
  induction eas generalizing s vs with
  | nil => rfl
  | cons a as ih => cases vs with
    | nil => rfl
    | cons b bs => simp [State.storeValues, ih]

@[simp] theorem State.storeBytes_xer (s : State) (as : List Nat) (bs : List Byte) : (s.storeBytes as bs).xer = s.xer := by
  induction as generalizing s bs with
  | nil => rfl
  | cons a as ih => cases bs with
    | nil => rfl
    | cons b bs => exact ih _ _

@[simp] theorem State.storeValue_xer (s : State) (ea : DWord) (n : Nat) (v : DWord) : (s.storeValue ea n v).xer = s.xer := by
  simp [State.storeValue]

@[simp] theorem State.storeValues_xer (s : State) (w : Nat) (eas vs : List DWord) : (s.storeValues w eas vs).xer = s.xer := by
  induction eas generalizing s vs with
  | nil => rfl
  | cons a as ih => cases vs with
    | nil => rfl
    | cons b bs => simp [State.storeValues, ih]

@[simp] theorem State.storeBytes_fpscr (s : State) (as : List Nat) (bs : List Byte) : (s.storeBytes as bs).fpscr = s.fpscr := by
  induction as generalizing s bs with
  | nil => rfl
  | cons a as ih => cases bs with
    | nil => rfl
    | cons b bs => exact ih _ _

@[simp] theorem State.storeValue_fpscr (s : State) (ea : DWord) (n : Nat) (v : DWord) : (s.storeValue ea n v).fpscr = s.fpscr := by
  simp [State.storeValue]

@[simp] theorem State.storeValues_fpscr (s : State) (w : Nat) (eas vs : List DWord) : (s.storeValues w eas vs).fpscr = s.fpscr := by
  induction eas generalizing s vs with
  | nil => rfl
  | cons a as ih => cases vs with
    | nil => rfl
    | cons b bs => simp [State.storeValues, ih]

@[simp] theorem State.storeBytes_pc (s : State) (as : List Nat) (bs : List Byte) : (s.storeBytes as bs).pc = s.pc := by
  induction as generalizing s bs with
  | nil => rfl
  | cons a as ih => cases bs with
    | nil => rfl
    | cons b bs => exact ih _ _

@[simp] theorem State.storeValue_pc (s : State) (ea : DWord) (n : Nat) (v : DWord) : (s.storeValue ea n v).pc = s.pc := by
  simp [State.storeValue]

@[simp] theorem State.storeValues_pc (s : State) (w : Nat) (eas vs : List DWord) : (s.storeValues w eas vs).pc = s.pc := by
  induction eas generalizing s vs with
  | nil => rfl
  | cons a as ih => cases vs with
    | nil => rfl
    | cons b bs => simp [State.storeValues, ih]

@[simp] theorem State.storeBytes_le (s : State) (as : List Nat) (bs : List Byte) : (s.storeBytes as bs).le = s.le := by
  induction as generalizing s bs with
  | nil => rfl
  | cons a as ih => cases bs with
    | nil => rfl
    | cons b bs => exact ih _ _

@[simp] theorem State.storeValue_le (s : State) (ea : DWord) (n : Nat) (v : DWord) : (s.storeValue ea n v).le = s.le := by
  simp [State.storeValue]

@[simp] theorem State.storeValues_le (s : State) (w : Nat) (eas vs : List DWord) : (s.storeValues w eas vs).le = s.le := by
  induction eas generalizing s vs with
  | nil => rfl
  | cons a as ih => cases vs with
    | nil => rfl
    | cons b bs => simp [State.storeValues, ih]

@[simp] theorem State.storeBytes_ile (s : State) (as : List Nat) (bs : List Byte) : (s.storeBytes as bs).ile = s.ile := by
  induction as generalizing s bs with
  | nil => rfl
  | cons a as ih => cases bs with
    | nil => rfl
    | cons b bs => exact ih _ _

@[simp] theorem State.storeValue_ile (s : State) (ea : DWord) (n : Nat) (v : DWord) : (s.storeValue ea n v).ile = s.ile := by
  simp [State.storeValue]

@[simp] theorem State.storeValues_ile (s : State) (w : Nat) (eas vs : List DWord) : (s.storeValues w eas vs).ile = s.ile := by
  induction eas generalizing s vs with
  | nil => rfl
  | cons a as ih => cases vs with
    | nil => rfl
    | cons b bs => simp [State.storeValues, ih]

@[simp] theorem State.storeBytes_params (s : State) (as : List Nat) (bs : List Byte) : (s.storeBytes as bs).params = s.params := by
  induction as generalizing s bs with
  | nil => rfl
  | cons a as ih => cases bs with
    | nil => rfl
    | cons b bs => exact ih _ _

@[simp] theorem State.storeValue_params (s : State) (ea : DWord) (n : Nat) (v : DWord) : (s.storeValue ea n v).params = s.params := by
  simp [State.storeValue]

@[simp] theorem State.storeValues_params (s : State) (w : Nat) (eas vs : List DWord) : (s.storeValues w eas vs).params = s.params := by
  induction eas generalizing s vs with
  | nil => rfl
  | cons a as ih => cases vs with
    | nil => rfl
    | cons b bs => simp [State.storeValues, ih]

@[simp] theorem State.storeBytes_fprSingle (s : State) (as : List Nat) (bs : List Byte) : (s.storeBytes as bs).fprSingle = s.fprSingle := by
  induction as generalizing s bs with
  | nil => rfl
  | cons a as ih => cases bs with
    | nil => rfl
    | cons b bs => exact ih _ _

@[simp] theorem State.storeValue_fprSingle (s : State) (ea : DWord) (n : Nat) (v : DWord) : (s.storeValue ea n v).fprSingle = s.fprSingle := by
  simp [State.storeValue]

@[simp] theorem State.storeValues_fprSingle (s : State) (w : Nat) (eas vs : List DWord) : (s.storeValues w eas vs).fprSingle = s.fprSingle := by
  induction eas generalizing s vs with
  | nil => rfl
  | cons a as ih => cases vs with
    | nil => rfl
    | cons b bs => simp [State.storeValues, ih]

@[simp] theorem State.storeBytes_draws (s : State) (as : List Nat) (bs : List Byte) : (s.storeBytes as bs).draws = s.draws := by
  induction as generalizing s bs with
  | nil => rfl
  | cons a as ih => cases bs with
    | nil => rfl
    | cons b bs => exact ih _ _

@[simp] theorem State.storeValue_draws (s : State) (ea : DWord) (n : Nat) (v : DWord) : (s.storeValue ea n v).draws = s.draws := by
  simp [State.storeValue]

@[simp] theorem State.storeValues_draws (s : State) (w : Nat) (eas vs : List DWord) : (s.storeValues w eas vs).draws = s.draws := by
  induction eas generalizing s vs with
  | nil => rfl
  | cons a as ih => cases vs with
    | nil => rfl
    | cons b bs => simp [State.storeValues, ih]

@[simp] theorem State.storeBytes_outcome (s : State) (as : List Nat) (bs : List Byte) : (s.storeBytes as bs).outcome = s.outcome := by
  induction as generalizing s bs with
  | nil => rfl
  | cons a as ih => cases bs with
    | nil => rfl
    | cons b bs => exact ih _ _

@[simp] theorem State.storeValue_outcome (s : State) (ea : DWord) (n : Nat) (v : DWord) : (s.storeValue ea n v).outcome = s.outcome := by
  simp [State.storeValue]

@[simp] theorem State.storeValues_outcome (s : State) (w : Nat) (eas vs : List DWord) : (s.storeValues w eas vs).outcome = s.outcome := by
  induction eas generalizing s vs with
  | nil => rfl
  | cons a as ih => cases vs with
    | nil => rfl
    | cons b bs => simp [State.storeValues, ih]

@[simp] theorem State.storeValue_readGpr (s : State) (ea : DWord) (n : Nat) (v : DWord) (q : Reg) :
    (s.storeValue ea n v).readGpr q = s.readGpr q := by
  simp [State.readGpr]

@[simp] theorem State.storeValues_readGpr (s : State) (w : Nat) (eas vs : List DWord) (q : Reg) :
    (s.storeValues w eas vs).readGpr q = s.readGpr q := by
  simp [State.readGpr]

@[simp] theorem State.storeValue_readFpr (s : State) (ea : DWord) (n : Nat) (v : DWord) (q : Reg) :
    (s.storeValue ea n v).readFpr q = s.readFpr q := by
  simp [State.readFpr]

@[simp] theorem State.storeValues_readFpr (s : State) (w : Nat) (eas vs : List DWord) (q : Reg) :
    (s.storeValues w eas vs).readFpr q = s.readFpr q := by
  simp [State.readFpr]

@[simp] theorem State.storeValue_isSingle (s : State) (ea : DWord) (n : Nat) (v : DWord) (q : Reg) :
    (s.storeValue ea n v).isSingle q = s.isSingle q := by
  simp [State.isSingle]

@[simp] theorem State.storeValues_isSingle (s : State) (w : Nat) (eas vs : List DWord) (q : Reg) :
    (s.storeValues w eas vs).isSingle q = s.isSingle q := by
  simp [State.isSingle]

@[simp] theorem State.setGprs_fpr (s : State) (r : Reg) (vs : List DWord) : (s.setGprs r vs).fpr = s.fpr := by
  induction vs generalizing s r with
  | nil => rfl
  | cons v vs ih => simp [State.setGprs, ih]

@[simp] theorem State.setGprs_cr (s : State) (r : Reg) (vs : List DWord) : (s.setGprs r vs).cr = s.cr := by
  induction vs generalizing s r with
  | nil => rfl
  | cons v vs ih => simp [State.setGprs, ih]

@[simp] theorem State.setGprs_lr (s : State) (r : Reg) (vs : List DWord) : (s.setGprs r vs).lr = s.lr := by
  induction vs generalizing s r with
  | nil => rfl
  | cons v vs ih => simp [State.setGprs, ih]

@[simp] theorem State.setGprs_ctr (s : State) (r : Reg) (vs : List DWord) : (s.setGprs r vs).ctr = s.ctr := by
  induction vs generalizing s r with
  | nil => rfl
  | cons v vs ih => simp [State.setGprs, ih]

@[simp] theorem State.setGprs_xer (s : State) (r : Reg) (vs : List DWord) : (s.setGprs r vs).xer = s.xer := by
  induction vs generalizing s r with
  | nil => rfl
  | cons v vs ih => simp [State.setGprs, ih]

@[simp] theorem State.setGprs_fpscr (s : State) (r : Reg) (vs : List DWord) : (s.setGprs r vs).fpscr = s.fpscr := by
  induction vs generalizing s r with
  | nil => rfl
  | cons v vs ih => simp [State.setGprs, ih]

@[simp] theorem State.setGprs_pc (s : State) (r : Reg) (vs : List DWord) : (s.setGprs r vs).pc = s.pc := by
  induction vs generalizing s r with
  | nil => rfl
  | cons v vs ih => simp [State.setGprs, ih]

@[simp] theorem State.setGprs_le (s : State) (r : Reg) (vs : List DWord) : (s.setGprs r vs).le = s.le := by
  induction vs generalizing s r with
  | nil => rfl
  | cons v vs ih => simp [State.setGprs, ih]

@[simp] theorem State.setGprs_ile (s : State) (r : Reg) (vs : List DWord) : (s.setGprs r vs).ile = s.ile := by
  induction vs generalizing s r with
  | nil => rfl
  | cons v vs ih => simp [State.setGprs, ih]

@[simp] theorem State.setGprs_mem (s : State) (r : Reg) (vs : List DWord) : (s.setGprs r vs).mem = s.mem := by
  induction vs generalizing s r with
  | nil => rfl
  | cons v vs ih => simp [State.setGprs, ih]

@[simp] theorem State.setGprs_params (s : State) (r : Reg) (vs : List DWord) : (s.setGprs r vs).params = s.params := by
  induction vs generalizing s r with
  | nil => rfl
  | cons v vs ih => simp [State.setGprs, ih]

@[simp] theorem State.setGprs_modified (s : State) (r : Reg) (vs : List DWord) : (s.setGprs r vs).modified = s.modified := by
  induction vs generalizing s r with
  | nil => rfl
  | cons v vs ih => simp [State.setGprs, ih]

@[simp] theorem State.setGprs_fprSingle (s : State) (r : Reg) (vs : List DWord) : (s.setGprs r vs).fprSingle = s.fprSingle := by
  induction vs generalizing s r with
  | nil => rfl
  | cons v vs ih => simp [State.setGprs, ih]

@[simp] theorem State.setGprs_draws (s : State) (r : Reg) (vs : List DWord) : (s.setGprs r vs).draws = s.draws := by
  induction vs generalizing s r with
  | nil => rfl
  | cons v vs ih => simp [State.setGprs, ih]

@[simp] theorem State.setGprs_outcome (s : State) (r : Reg) (vs : List DWord) : (s.setGprs r vs).outcome = s.outcome := by
  induction vs generalizing s r with
  | nil => rfl
  | cons v vs ih => simp [State.setGprs, ih]

/-! ### The addresses of a scalar's bytes -/

theorem State.sa_toNat_lt (s : State) (x : DWord) : (s.sa x).toNat < 2 ^ 64 := (s.sa x).isLt

theorem State.byteAddr_lt (s : State) (ea : DWord) (n i : Nat) : s.byteAddr ea n i < 2 ^ 64 := by
  unfold State.byteAddr
  split
  · exact BitVec.isLt _
  · exact BitVec.isLt _

theorem State.mem_operandAddrs {s : State} {ea : DWord} {n a : Nat} :
    a ∈ s.operandAddrs ea n ↔ ∃ i, i < n ∧ s.byteAddr ea n i = a := by
  simp [State.operandAddrs]

theorem State.mem_checkedAddrs {s : State} {ea : DWord} {n a : Nat} :
    a ∈ s.checkedAddrs ea n ↔ ∃ i, i < n ∧ (s.sa (ea + BitVec.ofNat 64 i)).toNat = a := by
  simp [State.checkedAddrs]

theorem State.operandAddrs_lt (s : State) (ea : DWord) (n a : Nat) (h : a ∈ s.operandAddrs ea n) : a < 2 ^ 64 := by
  obtain ⟨i, -, rfl⟩ := State.mem_operandAddrs.mp h
  exact s.byteAddr_lt ea n i

@[simp] theorem State.operandAddrs_length (s : State) (ea : DWord) (n : Nat) : (s.operandAddrs ea n).length = n := by
  simp [State.operandAddrs]

theorem add_ofNat_inj (x : DWord) (i j : Nat) (hi : i < 2 ^ 32) (hj : j < 2 ^ 32)
    (h : x + BitVec.ofNat 64 i = x + BitVec.ofNat 64 j) : i = j := by
  have h1 : BitVec.ofNat 64 i = BitVec.ofNat 64 j := by
    have := congrArg (· - x) h
    simpa [BitVec.add_sub_cancel, BitVec.add_comm] using this
  have h2 := congrArg BitVec.toNat h1
  simp only [BitVec.toNat_ofNat] at h2
  omega

theorem State.sa_add_inj (s : State) (x : DWord) (i j : Nat) (hi : i < 2 ^ 32) (hj : j < 2 ^ 32)
    (h : s.sa (x + BitVec.ofNat 64 i) = s.sa (x + BitVec.ofNat 64 j)) : i = j := by
  unfold State.sa at h
  split at h
  · exact add_ofNat_inj x i j hi hj h
  · have h2 := congrArg BitVec.toNat h
    simp only [zext64, loWord, BitVec.toNat_setWidth, BitVec.toNat_add, BitVec.toNat_ofNat] at h2
    omega

theorem xor7_inj (x y : DWord) (h : x ^^^ 7#64 = y ^^^ 7#64) : x = y := by
  have h2 := congrArg (· ^^^ 7#64) h
  simpa [BitVec.xor_assoc] using h2

/-- The bytes of a scalar are at distinct addresses. -/
theorem State.byteAddr_inj (s : State) (ea : DWord) (n i j : Nat) (hn : n ≤ 2 ^ 32) (hi : i < n) (hj : j < n)
    (h : s.byteAddr ea n i = s.byteAddr ea n j) : i = j := by
  unfold State.byteAddr at h
  split at h
  · have := s.sa_add_inj ea (n - 1 - i) (n - 1 - j) (by omega) (by omega) (xor7_inj _ _ (BitVec.eq_of_toNat_eq h))
    omega
  · exact s.sa_add_inj ea i j (by omega) (by omega) (BitVec.eq_of_toNat_eq h)

theorem State.operandAddrs_nodup (s : State) (ea : DWord) (n : Nat) (hn : n ≤ 2 ^ 32) : (s.operandAddrs ea n).Nodup := by
  unfold State.operandAddrs
  rw [List.nodup_map_iff_inj_on List.nodup_range]
  intro i hi j hj h
  exact s.byteAddr_inj ea n i j hn (by simpa using hi) (by simpa using hj) h

/-! ### Stores -/

/-- A store leaves every byte outside its operand as it was. -/
theorem State.readByte_storeValue_other (s : State) (ea : DWord) (n : Nat) (v : DWord) (a : Nat)
    (h : a ∉ s.operandAddrs ea n) : (s.storeValue ea n v).readByte a = s.readByte a :=
  s.readByte_storeBytes_other _ _ a h

/-- A store puts each byte of its value at that byte's address. -/
theorem State.readByte_storeValue_same (s : State) (ea : DWord) (n : Nat) (v : DWord) (i : Nat) (hn : n ≤ 2 ^ 32) (hi : i < n)
    (hm : Memory.wf s.mem = true) : (s.storeValue ea n v).readByte (s.byteAddr ea n i) = byteOf v n i := by
  have h := s.readByte_storeBytes_same (s.operandAddrs ea n) ((List.range n).map (byteOf v n)) i (by simpa using hi)
    (by simpa using hi) (s.operandAddrs_nodup ea n hn) hm (s.operandAddrs_lt ea n)
  simpa [State.storeValue, State.operandAddrs] using h

theorem State.storeValue_mem_wf (s : State) (ea : DWord) (n : Nat) (v : DWord) (hm : Memory.wf s.mem = true) :
    Memory.wf (s.storeValue ea n v).mem = true := s.storeBytes_mem_wf _ _ hm (s.operandAddrs_lt ea n)

theorem State.storeValue_modified (s : State) (ea : DWord) (n : Nat) (v : DWord) (hm : addressesWf s.modified = true) :
    addressesWf (s.storeValue ea n v).modified = true := s.storeBytes_modified _ _ hm (s.operandAddrs_lt ea n)

/-- A store enters its addresses among the modified ones, and no others (R130). -/
theorem State.mem_storeBytes_modified {s : State} {as : List Nat} {bs : List Byte} {a : Nat} (h : as.length ≤ bs.length) :
    a ∈ (s.storeBytes as bs).modified ↔ a ∈ as ∨ a ∈ s.modified := by
  induction as generalizing s bs with
  | nil => simp [State.storeBytes]
  | cons x as ih =>
    cases bs with
    | nil => simp at h
    | cons b bs =>
      rw [State.storeBytes, ih (by simpa using h), State.writeByte_modified, mem_insertAddr, List.mem_cons]
      tauto

theorem State.mem_storeValue_modified {s : State} {ea : DWord} {n : Nat} {v : DWord} {a : Nat} :
    a ∈ (s.storeValue ea n v).modified ↔ a ∈ s.operandAddrs ea n ∨ a ∈ s.modified :=
  State.mem_storeBytes_modified (by simp [State.operandAddrs])

theorem State.mem_storeValues_modified {s : State} {w : Nat} {eas vs : List DWord} {a : Nat} (h : eas.length ≤ vs.length) :
    a ∈ (s.storeValues w eas vs).modified ↔ (∃ ea ∈ eas, a ∈ s.operandAddrs ea w) ∨ a ∈ s.modified := by
  induction eas generalizing s vs with
  | nil => simp [State.storeValues]
  | cons x eas ih =>
    cases vs with
    | nil => simp at h
    | cons v vs =>
      have e : ∀ ea, (s.storeValue x w v).operandAddrs ea w = s.operandAddrs ea w := fun ea => by
        simp [State.operandAddrs, State.byteAddr, State.littleEndian, State.sa]
      rw [State.storeValues, ih (by simpa using h), State.mem_storeValue_modified]
      simp only [e, List.mem_cons, exists_eq_or_imp]
      exact or_left_comm.trans or_assoc.symm

theorem State.storeValues_mem_wf (s : State) (w : Nat) (eas vs : List DWord) (hm : Memory.wf s.mem = true) :
    Memory.wf (s.storeValues w eas vs).mem = true := by
  induction eas generalizing s vs with
  | nil => exact hm
  | cons a as ih => cases vs with
    | nil => exact hm
    | cons b bs => exact ih _ _ (s.storeValue_mem_wf a w b hm)

theorem State.storeValues_modified (s : State) (w : Nat) (eas vs : List DWord) (hm : addressesWf s.modified = true) :
    addressesWf (s.storeValues w eas vs).modified = true := by
  induction eas generalizing s vs with
  | nil => exact hm
  | cons a as ih => cases vs with
    | nil => exact hm
    | cons b bs => exact ih _ _ (s.storeValue_modified a w b hm)

/-! ### Loads -/

theorem byteOf_getLsbD (v : DWord) (n i k : Nat) (hk : k < 8) : (byteOf v n i).getLsbD k = v.getLsbD (8 * (n - 1 - i) + k) := by
  simp [byteOf, hk]

theorem valueOfBytes_append (bs : List Byte) (b : Byte) :
    valueOfBytes (bs ++ [b]) = (valueOfBytes bs <<< 8) ||| zext64 b := by
  simp [valueOfBytes]

theorem valueOfBytes_getLsbD (bs : List Byte) (k : Nat) (hk : k < 64) :
    (valueOfBytes bs).getLsbD k = if h : k / 8 < bs.length then (bs[bs.length - 1 - k / 8]'(by omega)).getLsbD (k % 8) else false := by
  induction bs using List.reverseRecOn generalizing k with
  | nil => simp [valueOfBytes]
  | append_singleton bs b ih =>
    rw [valueOfBytes_append]
    simp only [BitVec.getLsbD_or, BitVec.getLsbD_shiftLeft, hk, decide_true, Bool.true_and]
    have hz : (zext64 b).getLsbD k = if k < 8 then b.getLsbD k else false := by
      simp only [zext64, BitVec.getLsbD_setWidth, hk, decide_true, Bool.true_and]
      split
      · rfl
      · exact BitVec.getLsbD_of_ge _ _ (by omega)
    rw [hz]
    by_cases h8 : k < 8
    · have h1 : k / 8 = 0 := by omega
      have h2 : k % 8 = k := by omega
      simp [h8, h1, h2]
    · have h3 : k - 8 < 64 := by omega
      have h4 : (k - 8) / 8 = k / 8 - 1 := by omega
      have h5 : (k - 8) % 8 = k % 8 := by omega
      simp only [h8, decide_false, Bool.not_false, Bool.true_and, if_false, Bool.or_false]
      rw [ih _ h3]
      by_cases hl : (k - 8) / 8 < bs.length
      · have hl' : k / 8 < (bs ++ [b]).length := by simp; omega
        rw [dif_pos hl, dif_pos hl', h5]
        have hidx : (bs ++ [b]).length - 1 - k / 8 = bs.length - 1 - (k - 8) / 8 := by simp; omega
        simp only [hidx]
        rw [List.getElem_append_left (by omega)]
      · have hl' : ¬ k / 8 < (bs ++ [b]).length := by simp; omega
        rw [dif_neg hl, dif_neg hl']

/-- A loaded value: each of its bytes is the byte of storage at that byte's address. -/
theorem State.byteOf_loadValue (s : State) (ea : DWord) (n i : Nat) (hn : n ≤ 8) (hi : i < n) :
    byteOf (s.loadValue ea n) n i = s.readByte (s.byteAddr ea n i) := by
  apply BitVec.eq_of_getLsbD_eq
  intro k hk
  rw [byteOf_getLsbD _ _ _ _ hk, State.loadValue, valueOfBytes_getLsbD _ _ (by omega)]
  have h1 : (8 * (n - 1 - i) + k) / 8 = n - 1 - i := by omega
  have h2 : (8 * (n - 1 - i) + k) % 8 = k := by omega
  have h3 : n - 1 - (n - 1 - i) = i := by omega
  have h4 : n - 1 - i < n := by omega
  simp [h1, h2, h3, h4, State.operandAddrs]

/-- A loaded value has zeros to the left of its bytes. -/
theorem State.loadValue_high (s : State) (ea : DWord) (n k : Nat) (hk : 8 * n ≤ k) : (s.loadValue ea n).getLsbD k = false := by
  by_cases h64 : k < 64
  · rw [State.loadValue, valueOfBytes_getLsbD _ _ h64]
    have : ¬ k / 8 < n := by omega
    simp [this]
  · exact BitVec.getLsbD_of_ge _ _ (by omega)

end Sys2Proof.Machine
end

