-- ==== Sys2Proof/Laws/Invariant.lean ====
section
/-! SUPPORT. What the invariant of the states says, part by part, and the updates that keep it. -/
namespace Sys2Proof.Machine

set_option Elab.async false

/-- The invariant as its parts. -/
theorem State.inv_iff (s : State) : s.inv = true ↔
    Memory.wf s.mem = true ∧ addressesWf s.modified = true ∧ wordAligned s.pc = s.pc ∧ s.iea s.pc = s.pc ∧
      summarized s.fpscr = s.fpscr ∧ s.reservedClear = true := by
  simp [State.inv, and_assoc]

/-- The invariant depends on six fields only. -/
theorem State.inv_congr {s t : State} (hs : s.inv = true) (h1 : t.mem = s.mem) (h2 : t.modified = s.modified) (h3 : t.pc = s.pc)
    (h4 : t.fpscr = s.fpscr) (h5 : t.xer = s.xer) (h6 : t.params = s.params) : t.inv = true := by
  rw [State.inv_iff] at *
  simp only [State.iea, State.sa, State.reservedClear, State.fpscrReserved, h1, h2, h3, h4, h5, h6] at *
  exact hs

theorem State.inv_setGpr {s : State} (r : Reg) (v : DWord) (h : s.inv = true) : (s.setGpr r v).inv = true :=
  State.inv_congr h rfl rfl rfl rfl rfl rfl

theorem State.inv_setFpr {s : State} (r : Reg) (v : DWord) (b : Bool) (h : s.inv = true) : (s.setFpr r v b).inv = true :=
  State.inv_congr h rfl rfl rfl rfl rfl rfl

theorem State.inv_setCr {s : State} (v : Word) (h : s.inv = true) : (s.setCr v).inv = true :=
  State.inv_congr h rfl rfl rfl rfl rfl rfl

theorem State.inv_setLr {s : State} (v : DWord) (h : s.inv = true) : (s.setLr v).inv = true :=
  State.inv_congr h rfl rfl rfl rfl rfl rfl

theorem State.inv_setCtr {s : State} (v : DWord) (h : s.inv = true) : (s.setCtr v).inv = true :=
  State.inv_congr h rfl rfl rfl rfl rfl rfl

theorem State.inv_drew {s : State} (n : Nat) (h : s.inv = true) : (s.drew n).inv = true :=
  State.inv_congr h rfl rfl rfl rfl rfl rfl

theorem State.inv_setGprs {s : State} (r : Reg) (vs : List DWord) (h : s.inv = true) : (s.setGprs r vs).inv = true :=
  State.inv_congr h (by simp) (by simp) (by simp) (by simp) (by simp) (by simp)

theorem State.inv_outcome {s : State} (o : Option Exception) (h : s.inv = true) :
    (State.inv { s with outcome := o }) = true :=
  State.inv_congr h rfl rfl rfl rfl rfl rfl

theorem State.inv_storeValue {s : State} (ea : DWord) (n : Nat) (v : DWord) (h : s.inv = true) :
    (s.storeValue ea n v).inv = true := by
  rw [State.inv_iff] at *
  obtain ⟨h1, h2, h3, h4, h5, h6⟩ := h
  refine ⟨s.storeValue_mem_wf ea n v h1, s.storeValue_modified ea n v h2, ?_, ?_, ?_, ?_⟩
  · simpa using h3
  · simpa [State.iea, State.sa] using h4
  · simpa using h5
  · simpa [State.reservedClear, State.fpscrReserved] using h6

theorem State.inv_storeValues {s : State} (w : Nat) (eas vs : List DWord) (h : s.inv = true) :
    (s.storeValues w eas vs).inv = true := by
  induction eas generalizing s vs with
  | nil => exact h
  | cons a as ih => cases vs with
    | nil => exact h
    | cons b bs => exact ih _ (State.inv_storeValue a w b h)

/-! ### The instruction address -/

theorem wordAligned_idem (x : DWord) : wordAligned (wordAligned x) = wordAligned x := by
  simp [wordAligned, BitVec.and_assoc]

theorem wordAligned_getLsbD (x : DWord) (i : Nat) (hi : i < 64) : (wordAligned x).getLsbD i = (decide (2 ≤ i) && x.getLsbD i) := by
  unfold wordAligned
  rw [BitVec.getLsbD_and, BitVec.getLsbD_not]
  have : (3#64).getLsbD i = decide (i < 2) := by
    interval_cases i <;> rfl
  simp only [hi, this]
  by_cases h : i < 2
  · simp [h]
  · have : 2 ≤ i := by omega
    simp [h, this]

theorem wordAligned_eq_iff (x : DWord) : wordAligned x = x ↔ x.toNat % 4 = 0 := by
  constructor
  · intro h
    have h0 : x.getLsbD 0 = false := by rw [← h, wordAligned_getLsbD _ _ (by omega)]; rfl
    have h1 : x.getLsbD 1 = false := by rw [← h, wordAligned_getLsbD _ _ (by omega)]; rfl
    simp only [BitVec.getLsbD, Nat.testBit_eq_decide_div_mod_eq, decide_eq_false_iff_not] at h0 h1
    omega
  · intro h
    apply BitVec.eq_of_getLsbD_eq
    intro i hi
    rw [wordAligned_getLsbD _ _ hi]
    by_cases h2 : 2 ≤ i
    · simp [h2]
    · have : x.getLsbD i = false := by
        simp only [BitVec.getLsbD, Nat.testBit_eq_decide_div_mod_eq, decide_eq_false_iff_not]
        have : i = 0 ∨ i = 1 := by omega
        rcases this with rfl | rfl <;> omega
      simp [h2, this]

theorem State.iea_toNat (s : State) (x : DWord) :
    (s.iea x).toNat = if s.params.mode64 then x.toNat else x.toNat % 2 ^ 32 := by
  unfold State.iea State.sa
  split
  · rfl
  · simp only [zext64, loWord, BitVec.toNat_setWidth]
    omega

theorem State.iea_idem (s : State) (x : DWord) : s.iea (s.iea x) = s.iea x := by
  apply BitVec.eq_of_toNat_eq
  rw [s.iea_toNat, s.iea_toNat]
  split <;> omega

theorem State.iea_aligned (s : State) (x : DWord) (h : wordAligned x = x) : wordAligned (s.iea x) = s.iea x := by
  rw [wordAligned_eq_iff] at *
  rw [s.iea_toNat]
  split <;> omega

theorem aligned_add (x y : DWord) (hx : wordAligned x = x) (hy : wordAligned y = y) : wordAligned (x + y) = x + y := by
  rw [wordAligned_eq_iff] at *
  rw [BitVec.toNat_add]
  omega

/-- Continuing at an aligned address keeps the invariant. -/
theorem State.inv_setPc {s : State} (x : DWord) (hx : wordAligned x = x) (h : s.inv = true) : (s.setPc (s.iea x)).inv = true := by
  rw [State.inv_iff] at *
  obtain ⟨h1, h2, h3, h4, h5, h6⟩ := h
  exact ⟨h1, h2, s.iea_aligned x hx, s.iea_idem x, h5, h6⟩

/-- Completing an instruction keeps the invariant. -/
theorem State.inv_advance {s : State} (h : s.inv = true) : (advance s).inv = true :=
  State.inv_setPc _ (aligned_add _ _ ((State.inv_iff s).mp h).2.2.1 (by decide)) h

/-! ### XER and FPSCR -/

/-- Replacing XER by a value whose reserved bits are as before keeps the invariant. -/
theorem State.inv_setXer {s : State} (v : DWord) (hv : v &&& ~~~xerDefined = s.xer &&& ~~~xerDefined) (h : s.inv = true) :
    (s.setXer v).inv = true := by
  rw [State.inv_iff] at *
  obtain ⟨h1, h2, h3, h4, h5, h6⟩ := h
  refine ⟨h1, h2, h3, h4, h5, ?_⟩
  simp only [State.reservedClear, State.fpscrReserved, State.setXer_xer, State.setXer_params, State.setXer_fpscr, hv] at h6 ⊢
  exact h6

theorem State.inv_writeXer {s : State} (v : DWord) (h : s.inv = true) : (s.writeXer v).inv = true := by
  unfold State.writeXer
  rw [State.inv_iff] at *
  obtain ⟨h1, h2, h3, h4, h5, h6⟩ := h
  split
  · next hr =>
    refine ⟨h1, h2, h3, h4, h5, ?_⟩
    have hz : v &&& xerDefined &&& ~~~xerDefined = 0 := by
      rw [BitVec.and_assoc]
      simp
    simp only [State.reservedClear, State.fpscrReserved, State.setXer_xer, State.setXer_params, State.setXer_fpscr, hz] at h6 ⊢
    simp [hr] at h6 ⊢
    exact h6.2
  · next hr =>
    refine ⟨h1, h2, h3, h4, h5, ?_⟩
    simp [State.reservedClear, hr]

/-- Replacing bits of XER that are defined leaves its reserved bits alone. -/
theorem xer_setBitAt_reserved (x : DWord) (p : Nat) (b : Bool) (hp : p = 32 ∨ p = 33 ∨ p = 34) :
    setBitAt x p b &&& ~~~xerDefined = x &&& ~~~xerDefined := by
  apply eq_of_bitAt
  intro q hq
  rw [bitAt_and, bitAt_and, bitAt_setBitAt x p b q (by omega) hq]
  by_cases h : q = p
  · subst h
    rcases hp with rfl | rfl | rfl <;> simp [bitAt, xerDefined]
  · simp [h]

theorem State.inv_setCa {s : State} (b : Bool) (h : s.inv = true) : (s.setCa b).inv = true :=
  State.inv_setXer _ (xer_setBitAt_reserved _ _ _ (by simp)) h

theorem State.inv_setOv {s : State} (b : Bool) (h : s.inv = true) : (s.setOv b).inv = true :=
  State.inv_setXer _ (by rw [xer_setBitAt_reserved _ _ _ (by simp), xer_setBitAt_reserved _ _ _ (by simp)]) h

theorem State.inv_setOvIf {s : State} (oe b : Bool) (h : s.inv = true) : (s.setOvIf oe b).inv = true := by
  unfold State.setOvIf
  split
  · exact State.inv_setOv b h
  · exact h

theorem State.inv_setCrField {s : State} (n : FieldNum) (v : BitVec 4) (h : s.inv = true) : (s.setCrField n v).inv = true :=
  State.inv_setCr _ h

theorem State.inv_setCrBit {s : State} (b : BitNum) (v : Bool) (h : s.inv = true) : (s.setCrBit b v).inv = true :=
  State.inv_setCr _ h

theorem State.inv_setCr0If {s : State} (rc : Bool) (v : DWord) (h : s.inv = true) : (s.setCr0If rc v).inv = true := by
  unfold State.setCr0If
  split
  · exact State.inv_setCr _ h
  · exact h

theorem State.inv_setCr1If {s : State} (rc : Bool) (h : s.inv = true) : (s.setCr1If rc).inv = true := by
  unfold State.setCr1If
  split
  · exact State.inv_setCr _ h
  · exact h

/-- The summary bits depend on the other bits only. -/
theorem summarized_congr (f g : Word) (h : ∀ p, p < 32 → p ≠ 1 → p ≠ 2 → bitAt f p = bitAt g p) : summarized f = summarized g := by
  have hb : ∀ p, p < 32 → p ≠ 1 → p ≠ 2 → bitAt f p = bitAt g p := h
  have hvx : vxOf f = vxOf g := by
    simp [vxOf, hb 7, hb 8, hb 9, hb 10, hb 11, hb 12, hb 21, hb 22, hb 23]
  have hfex : fexOf f = fexOf g := by
    simp [fexOf, hvx, hb 24, hb 3, hb 25, hb 4, hb 26, hb 5, hb 27, hb 6, hb 28]
  apply eq_of_bitAt
  intro p hp
  simp only [summarized]
  rw [bitAt_setBitAt _ _ _ _ (by omega) hp, bitAt_setBitAt _ _ _ _ (by omega) hp, bitAt_setBitAt _ _ _ _ (by omega) hp,
    bitAt_setBitAt _ _ _ _ (by omega) hp, hfex, hvx]
  by_cases h1 : p = 1
  · simp [h1]
  · by_cases h2 : p = 2
    · simp [h2]
    · simp [h1, h2, hb p hp h1 h2]

theorem bitAt_summarized (f : Word) (p : Nat) (hp : p < 32) :
    bitAt (summarized f) p = if p = 1 then fexOf f else if p = 2 then vxOf f else bitAt f p := by
  simp only [summarized]
  rw [bitAt_setBitAt _ _ _ _ (by omega) hp, bitAt_setBitAt _ _ _ _ (by omega) hp]

/-- The summary bits are the ORs they are defined to be. -/
theorem summarized_idem (f : Word) : summarized (summarized f) = summarized f :=
  summarized_congr _ _ (fun p hp h1 h2 => by rw [bitAt_summarized f p hp]; simp [h1, h2])

/-- Replacing FPSCR by a summarized value that holds no reserved bit where none is stored keeps the invariant. -/
theorem State.inv_setFpscr {s : State} (v : Word) (hv : summarized v = v)
    (hr : s.params.reservedReads = .zero → v &&& s.fpscrReserved = 0) (h : s.inv = true) : (s.setFpscr v).inv = true := by
  rw [State.inv_iff] at *
  obtain ⟨h1, h2, h3, h4, h5, h6⟩ := h
  refine ⟨h1, h2, h3, h4, hv, ?_⟩
  have h7 : (s.setFpscr v).fpscrReserved = s.fpscrReserved := rfl
  simp only [State.reservedClear, State.setFpscr_xer, State.setFpscr_params, State.setFpscr_fpscr, h7] at h6 ⊢
  by_cases hz : s.params.reservedReads = .zero
  · simp [hz, hr hz] at h6 ⊢
    exact h6.1
  · simp [hz]

end Sys2Proof.Machine
end

