-- ==== Sys2Proof/Laws/Ops.lean ====
section
/-! SUPPORT. For each shared operation, everything it can do when it answers a next state, and that the operations which end an
instruction keep the invariant. -/
namespace Sys2Proof.Machine

set_option Elab.async false

/-! ### Ends of an instruction -/

theorem takeException_next {e : Exception} {s t : State} (h : takeException e s = .next t) : t = { s with outcome := some e } := by
  simpa [takeException, eq_comm] using h

theorem illegal_next {s t : State} (h : illegal s = .next t) :
    t = { s with outcome := some (.illegalInstruction s.currentWord s.pc) } := takeException_next h

theorem privileged_next {s t : State} (h : privileged s = .next t) :
    t = { s with outcome := some (.privilegedInstruction s.currentWord s.pc) } := takeException_next h

/-- A guarded operation either takes the exception with nothing else changed, or completes. -/
theorem guarded_next {e : Option Exception} {s d t : State} (h : guarded e s d = .next t) :
    (∃ x, e = some x ∧ t = { s with outcome := some x }) ∨ (e = none ∧ t = advance d) := by
  unfold guarded at h
  split at h
  · next x => exact .inl ⟨x, rfl, takeException_next h⟩
  · exact .inr ⟨rfl, by simpa [eq_comm] using h⟩

theorem guarded_none {e : Option Exception} {s d : State} (h : e = none) : guarded e s d = .next (advance d) := by
  rw [h]; rfl

theorem guarded_some {e : Option Exception} {x : Exception} {s d : State} (h : e = some x) :
    guarded e s d = .next { s with outcome := some x } := by
  rw [h]; rfl

theorem guarded_inv {e : Option Exception} {s d t : State} (hs : s.inv = true) (hd : d.inv = true)
    (h : guarded e s d = .next t) : t.inv = true := by
  rcases guarded_next h with ⟨x, -, rfl⟩ | ⟨-, rfl⟩
  · exact State.inv_outcome _ hs
  · exact State.inv_advance hd

theorem takeException_inv {e : Exception} {s t : State} (hs : s.inv = true) (h : takeException e s = .next t) : t.inv = true := by
  rw [takeException_next h]
  exact State.inv_outcome _ hs

theorem next_advance_inv {s t : State} (hs : s.inv = true) (h : (Host.Outcome.next (advance s) : Out) = .next t) :
    t.inv = true := by
  injection h with h
  subst h
  exact State.inv_advance hs

/-! ### Accesses to storage -/

/-- No exception: the operand is aligned or need not be, and every byte is available. -/
theorem State.accessFault_none {s : State} {k : Access} {ea : DWord} {n : Nat} :
    s.accessFault k ea n = none ↔ s.misaligned ea n = false ∧ ∀ a ∈ s.checkedAddrs ea n, s.available k a = true := by
  unfold State.accessFault
  cases hm : s.misaligned ea n with
  | true => simp
  | false =>
    simp only [Bool.false_eq_true, if_false, true_and]
    by_cases h : (s.checkedAddrs ea n).all (s.available k) = true
    · simp only [h, if_true, true_iff]
      simpa using h
    · simp only [h]
      simp only [List.all_eq_true] at h
      simp [h]

/-- A fetch finds bytes exactly where each of `iea(pc)` to `iea(pc) + 3` may be fetched and no byte of the word is modified. -/
theorem State.fetch_bytes {s : State} {bs : List Byte} : s.fetch = .bytes bs ↔
    (∀ a ∈ s.checkedAddrs (wordAligned s.pc) 4, s.available .fetch a = true) ∧ (∀ a ∈ s.fetchAddrs, a ∉ s.modified) ∧
      bs = s.fetchBytes := by
  unfold State.fetch
  split
  · rename_i h
    simp at h ⊢
    obtain ⟨a, ha, h⟩ := h
    intro h'
    simp [h' a ha] at h
  · rename_i h
    split
    · rename_i h'
      simp at h h' ⊢
      obtain ⟨a, ha, hb⟩ := h'
      exact fun _ h2 => absurd hb (h2 a ha)
    · rename_i h'
      simp at h h' ⊢
      exact ⟨fun e => ⟨h, h', e.symm⟩, fun e => e.2.2.symm⟩

/-- A load writes the value loaded, or takes the exception of its access. -/
theorem loadGpr_next {rt : Reg} {ea : DWord} {n : Nat} {conv : DWord → DWord} {s t : State} (h : loadGpr rt ea n conv s = .next t) :
    (∃ x, s.accessFault .load ea n = some x ∧ t = { s with outcome := some x }) ∨
      (s.accessFault .load ea n = none ∧ t = advance (s.setGpr rt (conv (s.loadValue ea n)))) := guarded_next h

theorem loadGprUpdate_next {rt ra : Reg} {ea : DWord} {n : Nat} {conv : DWord → DWord} {s t : State}
    (h : loadGprUpdate rt ra ea n conv s = .next t) : badLoadUpdate rt ra = false ∧
    ((∃ x, s.accessFault .load ea n = some x ∧ t = { s with outcome := some x }) ∨
      (s.accessFault .load ea n = none ∧ t = advance ((s.setGpr rt (conv (s.loadValue ea n))).setGpr ra ea))) := by
  unfold loadGprUpdate at h
  split at h
  · cases h
  · next hb => exact ⟨by simpa using hb, guarded_next h⟩

theorem storeScalar_next {v ea : DWord} {n : Nat} {s t : State} (h : storeScalar v ea n s = .next t) :
    (∃ x, s.accessFault .store ea n = some x ∧ t = { s with outcome := some x }) ∨
      (s.accessFault .store ea n = none ∧ t = advance (s.storeValue ea n v)) := guarded_next h

theorem storeScalarUpdate_next {v ea : DWord} {ra : Reg} {n : Nat} {s t : State} (h : storeScalarUpdate v ra ea n s = .next t) :
    badUpdate ra = false ∧ ((∃ x, s.accessFault .store ea n = some x ∧ t = { s with outcome := some x }) ∨
      (s.accessFault .store ea n = none ∧ t = advance ((s.storeValue ea n v).setGpr ra ea))) := by
  unfold storeScalarUpdate at h
  split at h
  · cases h
  · next hb => exact ⟨by simpa using hb, guarded_next h⟩

theorem fpAccess_next {k : Access} {ea : DWord} {n : Nat} {d s t : State} (h : fpAccess k ea n d s = .next t) :
    (∃ x, s.accessFault k ea n = some x ∧ t = { s with outcome := some x }) ∨
      (s.accessFault k ea n = none ∧ t = advance d) := guarded_next h

theorem fpAccessUpdate_next {k : Access} {ra : Reg} {ea : DWord} {n : Nat} {d s t : State}
    (h : fpAccessUpdate k ra ea n d s = .next t) : badUpdate ra = false ∧
    ((∃ x, s.accessFault k ea n = some x ∧ t = { s with outcome := some x }) ∨
      (s.accessFault k ea n = none ∧ t = advance (d.setGpr ra ea))) := by
  unfold fpAccessUpdate at h
  split at h
  · cases h
  · next hb => exact ⟨by simpa using hb, guarded_next h⟩

theorem loadGpr_inv {rt : Reg} {ea : DWord} {n : Nat} {conv : DWord → DWord} {s t : State} (hs : s.inv = true)
    (h : loadGpr rt ea n conv s = .next t) : t.inv = true := guarded_inv hs (State.inv_setGpr _ _ hs) h

theorem loadGprUpdate_inv {rt ra : Reg} {ea : DWord} {n : Nat} {conv : DWord → DWord} {s t : State} (hs : s.inv = true)
    (h : loadGprUpdate rt ra ea n conv s = .next t) : t.inv = true := by
  unfold loadGprUpdate at h
  split at h
  · cases h
  · exact guarded_inv hs (State.inv_setGpr _ _ (State.inv_setGpr _ _ hs)) h

theorem storeScalar_inv {v ea : DWord} {n : Nat} {s t : State} (hs : s.inv = true) (h : storeScalar v ea n s = .next t) :
    t.inv = true := guarded_inv hs (State.inv_storeValue _ _ _ hs) h

theorem storeScalarUpdate_inv {v ea : DWord} {ra : Reg} {n : Nat} {s t : State} (hs : s.inv = true)
    (h : storeScalarUpdate v ra ea n s = .next t) : t.inv = true := by
  unfold storeScalarUpdate at h
  split at h
  · cases h
  · exact guarded_inv hs (State.inv_setGpr _ _ (State.inv_storeValue _ _ _ hs)) h

theorem fpAccess_inv {k : Access} {ea : DWord} {n : Nat} {d s t : State} (hs : s.inv = true) (hd : d.inv = true)
    (h : fpAccess k ea n d s = .next t) : t.inv = true := guarded_inv hs hd h

theorem fpAccessUpdate_inv {k : Access} {ra : Reg} {ea : DWord} {n : Nat} {d s t : State} (hs : s.inv = true) (hd : d.inv = true)
    (h : fpAccessUpdate k ra ea n d s = .next t) : t.inv = true := by
  unfold fpAccessUpdate at h
  split at h
  · cases h
  · exact guarded_inv hs (State.inv_setGpr _ _ hd) h

theorem unlessLittleEndian_next {ea : DWord} {s t : State} {o : Out} (h : unlessLittleEndian ea s o = .next t) :
    (s.littleEndian = true ∧ t = { s with outcome := some (.alignment ea s.pc) }) ∨ (s.littleEndian = false ∧ o = .next t) := by
  unfold unlessLittleEndian at h
  split at h
  · next hl => exact .inl ⟨hl, takeException_next h⟩
  · next hl => exact .inr ⟨by simpa using hl, h⟩

/-! ### Fixed-point results -/

theorem State.inv_xoResult {s : State} (rt : Reg) (res : DWord) (ov oe rc : Bool) (h : s.inv = true) :
    (s.xoResult rt res ov oe rc).inv = true := State.inv_setCr0If _ _ (State.inv_setOvIf _ _ (State.inv_setGpr _ _ h))

theorem State.inv_setCr0WordIf {s : State} (rc undef : Bool) (res v : DWord) (h : s.inv = true) :
    (s.setCr0WordIf rc undef res v).inv = true := by
  unfold State.setCr0WordIf
  split
  · split <;> exact State.inv_setCr _ h
  · exact h

theorem trapOut_next {sel : BitVec 5} {a b : DWord} {s t : State} (h : trapOut sel a b s = .next t) :
    (trapMet sel a b = true ∧ t = { s with outcome := some (.trap s.pc) }) ∨ (trapMet sel a b = false ∧ t = advance s) := by
  unfold trapOut at h
  split at h
  · next hm => exact .inl ⟨hm, takeException_next h⟩
  · next hm => exact .inr ⟨by simpa using hm, by simpa [eq_comm] using h⟩

theorem branchConditional_next {bo : BitVec 5} {bi : BitNum} {target : DWord} {lk : Bool} {s t : State}
    (h : branchConditional bo bi target lk s = .next t) :
    t = ((s.decremented bo).linkIf lk).branchIf ((s.decremented bo).ctrOk bo && (s.decremented bo).condOk bo bi) target := by
  injection h with h
  exact h.symm

/-! ### Ends of a floating-point instruction -/

/-- `FPFinish`: the enabled exception, or completion; CR1 in both. -/
theorem fpFinish_next {rc caused : Bool} {s t : State} (h : fpFinish rc caused s = .next t) :
    (caused = true ∧ s.params.fe ≠ .ignore ∧ t = { s.setCr1If rc with outcome := some (.fpEnabled s.pc) }) ∨
      ((caused = false ∨ s.params.fe = .ignore) ∧ t = advance (s.setCr1If rc)) := by
  unfold fpFinish at h
  split at h
  · next hc =>
    simp only [Bool.and_eq_true, bne_iff_ne] at hc
    exact .inl ⟨hc.1, hc.2, takeException_next h⟩
  · next hc =>
    simp only [Bool.and_eq_true, bne_iff_ne, not_and, not_not] at hc
    refine .inr ⟨?_, by simpa [eq_comm] using h⟩
    cases caused with
    | false => exact .inl rfl
    | true => exact .inr (hc rfl)

theorem fpFinish_completes {rc caused : Bool} {s : State} (h : caused = false ∨ s.params.fe = .ignore) :
    fpFinish rc caused s = .next (advance (s.setCr1If rc)) := by
  unfold fpFinish
  rcases h with h | h <;> simp [h]

theorem fpFinish_inv {rc caused : Bool} {s t : State} (hs : s.inv = true) (h : fpFinish rc caused s = .next t) : t.inv = true := by
  rcases fpFinish_next h with ⟨-, -, rfl⟩ | ⟨-, rfl⟩
  · exact State.inv_outcome _ (State.inv_setCr1If _ hs)
  · exact State.inv_advance (State.inv_setCr1If _ hs)

/-- Everything a floating-point operation can do. -/
theorem fpCommit_next {frt : Reg} {rc single : Bool} {o : FpOut} {s t : State} (h : fpCommit frt rc single o s = .next t) :
    (causedBy s.fpscr o.occ = true ∧ s.params.fe ≠ .ignore ∧
      t = { (((s.setFpscr (fpscrAfter s.fpscr o)).deliverFpr frt single o.result).drew o.drawn).setCr1If rc with
            outcome := some (.fpEnabled s.pc) }) ∨
    ((causedBy s.fpscr o.occ = false ∨ s.params.fe = .ignore) ∧
      t = advance ((((s.setFpscr (fpscrAfter s.fpscr o)).deliverFpr frt single o.result).drew o.drawn).setCr1If rc)) := by
  have hp : (((s.setFpscr (fpscrAfter s.fpscr o)).deliverFpr frt single o.result).drew o.drawn).params = s.params := by
    unfold State.deliverFpr; split <;> rfl
  have hc : (((s.setFpscr (fpscrAfter s.fpscr o)).deliverFpr frt single o.result).drew o.drawn).pc = s.pc := by
    unfold State.deliverFpr; split <;> rfl
  have := fpFinish_next h
  rw [hp, hc] at this
  exact this

/-! ### FPSCR kept in its form -/

theorem reserved_iff (s : State) (v : Word) :
    v &&& s.fpscrReserved = 0 ↔ bitAt v 20 = false ∧ (s.params.hasNi = false → bitAt v 29 = false) := by
  have key : ∀ p, p < 32 → bitAt s.fpscrReserved p = (decide (p = 20) || (decide (p = 29) && !s.params.hasNi)) := by
    intro p hp
    unfold State.fpscrReserved
    cases s.params.hasNi <;> (interval_cases p <;> decide)
  constructor
  · intro h
    have h20 := congrArg (bitAt · 20) h
    have h29 := congrArg (bitAt · 29) h
    simp only [bitAt_and, key 20 (by omega), key 29 (by omega)] at h20 h29
    refine ⟨by simpa [bitAt] using h20, ?_⟩
    intro hn
    simpa [bitAt, hn] using h29
  · rintro ⟨h1, h2⟩
    apply eq_of_bitAt
    intro p hp
    rw [bitAt_and, key p hp]
    by_cases h20 : p = 20
    · subst h20; simp [h1, bitAt_zero]
    · by_cases h29 : p = 29
      · subst h29
        cases hn : s.params.hasNi with
        | true => simp [bitAt_zero]
        | false => simp [h2 hn, bitAt_zero]
      · simp [h20, h29, bitAt_zero]

/-- A change of FPSCR that leaves bits 20 and 29 alone keeps the invariant. -/
theorem State.inv_setFpscr_summarized {s : State} (v : Word) (h20 : bitAt v 20 = bitAt s.fpscr 20)
    (h29 : bitAt v 29 = bitAt s.fpscr 29) (h : s.inv = true) : (s.setFpscr (summarized v)).inv = true := by
  refine State.inv_setFpscr _ (summarized_idem v) ?_ h
  intro hz
  have h6 := ((State.inv_iff s).mp h).2.2.2.2.2
  simp only [State.reservedClear, hz, bne_self_eq_false, Bool.false_or, Bool.and_eq_true, beq_iff_eq] at h6
  have h7 := (reserved_iff s s.fpscr).mp h6.2
  rw [reserved_iff, bitAt_summarized _ _ (by omega), bitAt_summarized _ _ (by omega)]
  simpa [h20, h29] using h7

theorem setExc_fold_other (es : List FpExc) (f : Word) (p : Nat) (hp : p < 32) (hne : ∀ e : FpExc, e.bit ≠ p) :
    bitAt (es.foldl (fun g e => setBitAt g e.bit true) f) p = bitAt f p := by
  induction es generalizing f with
  | nil => rfl
  | cons e es ih =>
    rw [List.foldl_cons, ih, bitAt_setBitAt _ _ _ _ (by cases e <;> decide) hp]
    simp [Ne.symm (hne e)]

/-- Recording exceptions changes FX and exception bits only. -/
theorem bitAt_setExc_other (f : Word) (es : List FpExc) (p : Nat) (hp : p < 32) (h0 : p ≠ 0) (hne : ∀ e : FpExc, e.bit ≠ p) :
    bitAt (setExc f es) p = bitAt f p := by
  unfold setExc
  rw [bitAt_setBitAt _ _ _ _ (by omega) hp, if_neg h0, setExc_fold_other _ _ _ hp hne]

/-- The FPSCR after an operation keeps the invariant. -/
theorem State.inv_fpscrAfter {s : State} (o : FpOut) (h : s.inv = true) : (s.setFpscr (fpscrAfter s.fpscr o)).inv = true := by
  unfold fpscrAfter
  have key : ∀ p, p = 20 ∨ p = 29 →
      bitAt (match o.fprf with
        | some c => setFld (setBitAt (setBitAt (setExc s.fpscr o.occ) 13 o.fr) 14 o.fi) 15 c
        | none => setBitAt (setBitAt (setExc s.fpscr o.occ) 13 o.fr) 14 o.fi) p = bitAt s.fpscr p := by
    intro p hp
    have hlt : p < 32 := by omega
    have h1 : bitAt (setBitAt (setBitAt (setExc s.fpscr o.occ) 13 o.fr) 14 o.fi) p = bitAt s.fpscr p := by
      rw [bitAt_setBitAt _ _ _ _ (by omega) hlt, if_neg (by omega), bitAt_setBitAt _ _ _ _ (by omega) hlt, if_neg (by omega)]
      refine bitAt_setExc_other _ _ _ hlt (by omega) ?_
      intro e
      rcases hp with rfl | rfl <;> cases e <;> decide
    cases o.fprf with
    | none => exact h1
    | some c =>
      show bitAt (setFld _ 15 c) p = _
      rw [bitAt_setFld _ _ _ _ (by omega) hlt, if_neg (by omega), h1]
  exact State.inv_setFpscr_summarized _ (key 20 (by simp)) (key 29 (by simp)) h

theorem State.inv_deliverFpr {s : State} (frt : Reg) (single : Bool) (r : Option DWord) (h : s.inv = true) :
    (s.deliverFpr frt single r).inv = true := by
  unfold State.deliverFpr
  split
  · exact State.inv_setFpr _ _ _ h
  · exact h

theorem fpCommit_inv {frt : Reg} {rc single : Bool} {o : FpOut} {s t : State} (hs : s.inv = true)
    (h : fpCommit frt rc single o s = .next t) : t.inv = true :=
  fpFinish_inv (State.inv_drew _ (State.inv_deliverFpr _ _ _ (State.inv_fpscrAfter o hs))) h

theorem State.inv_writeFpscr {s : State} (v : Word) (h : s.inv = true) : (s.writeFpscr v).inv = true := by
  unfold State.writeFpscr
  split
  · refine State.inv_setFpscr _ (summarized_idem _) ?_ h
    intro _
    rw [reserved_iff, bitAt_summarized _ _ (by omega), bitAt_summarized _ _ (by omega)]
    have h1 := (reserved_iff s (v &&& ~~~s.fpscrReserved)).mp (by rw [BitVec.and_assoc]; simp)
    simpa using h1
  · next hz =>
    exact State.inv_setFpscr _ (summarized_idem _) (fun h0 => by rw [h0] at hz; cases hz) h

theorem writeFpscrOut_inv {v : Word} {rc : Bool} {s t : State} (hs : s.inv = true) (h : writeFpscrOut v rc s = .next t) :
    t.inv = true := fpFinish_inv (State.inv_writeFpscr _ hs) h

/-! ### The invariant, operation by operation -/

theorem sumOut_inv {rt : Reg} {x : Sum} {oe rc : Bool} {s t : State} (hs : s.inv = true) (h : sumOut rt x oe rc s = .next t) :
    t.inv = true := next_advance_inv (State.inv_xoResult _ _ _ _ _ hs) h

theorem carryingOut_inv {rt : Reg} {x : Sum} {oe rc : Bool} {s t : State} (hs : s.inv = true)
    (h : carryingOut rt x oe rc s = .next t) : t.inv = true :=
  next_advance_inv (State.inv_xoResult _ _ _ _ _ (State.inv_setCa _ hs)) h

theorem highWordOut_inv {rt : Reg} {w : Word} {rc : Bool} {s t : State} (hs : s.inv = true)
    (h : highWordOut rt w rc s = .next t) : t.inv = true :=
  next_advance_inv (State.inv_drew _ (State.inv_setCr0WordIf _ _ _ _ (State.inv_setGpr _ _ hs))) h

theorem divideDouble_inv {rt : Reg} {bad : Bool} {q : DWord} {oe rc : Bool} {s t : State} (hs : s.inv = true)
    (h : divideDouble rt bad q oe rc s = .next t) : t.inv = true := by
  unfold divideDouble at h
  split at h
  · exact next_advance_inv (State.inv_drew _ (State.inv_setCr0WordIf _ _ _ _ (State.inv_setOvIf _ _ (State.inv_setGpr _ _ hs)))) h
  · exact next_advance_inv (State.inv_xoResult _ _ _ _ _ hs) h

theorem divideWord_inv {rt : Reg} {bad : Bool} {q : Word} {oe rc : Bool} {s t : State} (hs : s.inv = true)
    (h : divideWord rt bad q oe rc s = .next t) : t.inv = true :=
  next_advance_inv (State.inv_drew _ (State.inv_setCr0WordIf _ _ _ _ (State.inv_setOvIf _ _ (State.inv_setGpr _ _ hs)))) h

theorem compareOut_inv {bf : FieldNum} {c : BitVec 4} {s t : State} (hs : s.inv = true) (h : compareOut bf c s = .next t) :
    t.inv = true := next_advance_inv (State.inv_setCr _ hs) h

theorem logicalOut_inv {ra : Reg} {v : DWord} {rc : Bool} {s t : State} (hs : s.inv = true) (h : logicalOut ra v rc s = .next t) :
    t.inv = true := next_advance_inv (State.inv_setCr0If _ _ (State.inv_setGpr _ _ hs)) h

theorem rotateOut_inv {ra : Reg} {v : DWord} {rc : Bool} {s t : State} (hs : s.inv = true) (h : rotateOut ra v rc s = .next t) :
    t.inv = true := next_advance_inv (State.inv_setCr0If _ _ (State.inv_setGpr _ _ hs)) h

theorem shiftAlgebraicOut_inv {ra : Reg} {r m : DWord} {sign lost rc : Bool} {s t : State} (hs : s.inv = true)
    (h : shiftAlgebraicOut ra r m sign lost rc s = .next t) : t.inv = true :=
  next_advance_inv (State.inv_setCr0If _ _ (State.inv_setCa _ (State.inv_setGpr _ _ hs))) h

theorem State.inv_storeSingle {s : State} (frs : Reg) (ea : DWord) (h : s.inv = true) : (s.storeSingle frs ea).inv = true := by
  unfold State.storeSingle
  dsimp only
  split
  · exact State.inv_drew _ (State.inv_storeValue _ _ _ h)
  · exact State.inv_storeValue _ _ _ h

theorem compareFinish_inv {bf : FieldNum} {c : BitVec 4} {es : List FpExc} {s t : State} (hs : s.inv = true)
    (h : compareFinish bf c es s = .next t) : t.inv = true := by
  unfold compareFinish at h
  refine fpFinish_inv (State.inv_setCrField _ _ (State.inv_setFpscr_summarized _ ?_ ?_ hs)) h
  all_goals
    rw [bitAt_setExc_other _ _ _ (by omega) (by omega) (by intro e; cases e <;> decide),
      bitAt_setFld _ _ _ _ (by omega) (by omega), if_neg (by omega)]

theorem bitAt_fpscrBits (bits : List Nat) (m : Word) (p : Nat) (hp : p < 32) (hb : ∀ b ∈ bits, b < 32) :
    bitAt (bits.foldl (fun m b => m ||| ones 32 b 1) m) p = (bitAt m p || decide (p ∈ bits)) := by
  induction bits generalizing m with
  | nil => simp
  | cons b bs ih =>
    have hb' := hb b (by simp)
    rw [List.foldl_cons, ih _ (fun x hx => hb x (by simp [hx])), bitAt_or, bitAt_ones _ _ _ _ (by omega) hp]
    by_cases h : p = b
    · subst h; simp
    · have h2 : ¬ (b ≤ p ∧ p < b + 1) := by omega
      rw [decide_eq_false h2]
      simp [h]

theorem undefinedSingle_inv {frt : Reg} {rc : Bool} {bits : List Nat} {s t : State} (hb : ∀ b ∈ bits, b < 32 ∧ b ≠ 20 ∧ b ≠ 29)
    (hs : s.inv = true) (h : undefinedSingle frt rc bits s = .next t) : t.inv = true := by
  have key : ∀ p, p = 20 ∨ p = 29 →
      bitAt ((s.fpscr &&& ~~~fpscrBits bits) ||| (loWord (s.free 1) &&& fpscrBits bits)) p = bitAt s.fpscr p := by
    intro p hp
    have hlt : p < 32 := by omega
    have hm : bitAt (fpscrBits bits) p = false := by
      rw [fpscrBits, bitAt_fpscrBits _ _ _ hlt (fun b hx => (hb b hx).1)]
      have : p ∉ bits := fun hx => by have := hb p hx; omega
      simp [this, bitAt_zero]
    rw [bitAt_or, bitAt_and, bitAt_and, bitAt_not _ _ hlt, hm]
    simp
  have h1 : (s.setFpscr (summarized ((s.fpscr &&& ~~~fpscrBits bits) ||| (loWord (s.free 1) &&& fpscrBits bits)))).inv = true :=
    State.inv_setFpscr_summarized _ (key 20 (by simp)) (key 29 (by simp)) hs
  unfold undefinedSingle at h
  dsimp only at h
  refine next_advance_inv (State.inv_drew _ ?_) h
  split
  · exact State.inv_setCr _ (State.inv_setFpr _ _ _ h1)
  · exact State.inv_setFpr _ _ _ h1

theorem bitAt_clearField (v : Word) (n : FieldNum) (p : Nat) (hp : p < 32) :
    bitAt (clearField v n) p =
      if p / 4 = n.toNat ∧ (p = 0 ∨ p ∈ exceptionBits) then false else bitAt v p := by
  have hn : n.toNat < 8 := n.isLt
  have step : ∀ (g : Word) (b : Nat), b < 32 →
      bitAt (if b == 0 || exceptionBits.contains b then setBitAt g b false else g) p =
        if p = b ∧ (p = 0 ∨ p ∈ exceptionBits) then false else bitAt g p := by
    intro g b hb
    by_cases hc : (b == 0 || exceptionBits.contains b) = true
    · rw [if_pos hc, bitAt_setBitAt _ _ _ _ hb hp]
      have hc' : b = 0 ∨ b ∈ exceptionBits := by simpa using hc
      by_cases h : p = b
      · subst h; simp [hc']
      · simp [h]
    · rw [if_neg hc]
      have hc' : ¬ (b = 0 ∨ b ∈ exceptionBits) := by simpa using hc
      by_cases h : p = b
      · subst h; simp [hc']
      · simp [h]
  unfold clearField
  simp only [List.range_succ, List.range_zero, List.nil_append, List.cons_append, List.foldl_cons, List.foldl_nil]
  rw [step _ _ (by omega), step _ _ (by omega), step _ _ (by omega), step _ _ (by omega)]
  by_cases he : p = 0 ∨ p ∈ exceptionBits
  · simp only [he, and_true]
    by_cases hq : p / 4 = n.toNat
    · have : p = 4 * n.toNat ∨ p = 4 * n.toNat + 1 ∨ p = 4 * n.toNat + 2 ∨ p = 4 * n.toNat + 3 := by omega
      rcases this with h | h | h | h <;> simp [h] <;> omega
    · have h0 : ¬ p = 4 * n.toNat + 0 := by omega
      have h1 : ¬ p = 4 * n.toNat + 1 := by omega
      have h2 : ¬ p = 4 * n.toNat + 2 := by omega
      have h3 : ¬ p = 4 * n.toNat + 3 := by omega
      rw [if_neg h3, if_neg h2, if_neg h1, if_neg h0, if_neg hq]
  · simp [he]

theorem execMcrfs_inv {bf bfa : FieldNum} {s t : State} (hs : s.inv = true) (h : execMcrfs bf bfa s = .next t) : t.inv = true := by
  unfold execMcrfs at h
  refine next_advance_inv (State.inv_setFpscr_summarized _ ?_ ?_ (State.inv_setCrField _ _ hs)) h
  all_goals
    rw [bitAt_clearField _ _ _ (by omega), if_neg (by simp [exceptionBits])]
    rfl

theorem execMtfsb0_inv {bt : BitNum} {rc : Bool} {s t : State} (hs : s.inv = true) (h : execMtfsb0 bt rc s = .next t) :
    t.inv = true := by
  unfold execMtfsb0 at h
  refine next_advance_inv (State.inv_setCr1If _ ?_) h
  split
  · exact hs
  · exact State.inv_writeFpscr _ hs

theorem execMtfsb1_inv {bt : BitNum} {rc : Bool} {s t : State} (hs : s.inv = true) (h : execMtfsb1 bt rc s = .next t) :
    t.inv = true := by
  unfold execMtfsb1 at h
  split at h
  · exact next_advance_inv (State.inv_setCr1If _ hs) h
  · exact writeFpscrOut_inv hs h

/-- Clearing XER[32:35] keeps the invariant: bit 35 is reserved. -/
theorem execMcrxr_inv {bf : FieldNum} {s t : State} (hs : s.inv = true) (h : execMcrxr bf s = .next t) : t.inv = true := by
  unfold execMcrxr at h
  split at h
  · exact takeException_inv hs h
  · refine next_advance_inv ?_ h
    have hc := State.inv_setCrField bf (fld s.readXer 32 4) hs
    rw [State.inv_iff] at hc ⊢
    obtain ⟨h1, h2, h3, h4, h5, h6⟩ := hc
    refine ⟨h1, h2, h3, h4, h5, ?_⟩
    by_cases hz : s.params.reservedReads = .zero
    · have h7 : s.xer &&& ~~~xerDefined = 0 ∧ s.fpscr &&& s.fpscrReserved = 0 := by
        have := ((State.inv_iff s).mp hs).2.2.2.2.2
        simpa [State.reservedClear, hz] using this
      have h8 : setFld s.xer 32 (0 : BitVec 4) &&& ~~~xerDefined = 0 := by
        apply eq_of_bitAt
        intro p hp
        have h9 := congrArg (bitAt · p) h7.1
        simp only [bitAt_and] at h9 ⊢
        rw [bitAt_setFld _ _ _ _ (by omega) hp]
        split
        · simp [bitAt_zero]
        · exact h9
      simp only [State.reservedClear, Bool.or_eq_true, Bool.and_eq_true, beq_iff_eq]
      exact .inr ⟨h8, h7.2⟩
    · have h10 : (s.setCrField bf (fld s.readXer 32 4)).params = s.params := rfl
      simp [State.reservedClear, h10, hz]

end Sys2Proof.Machine
end

