-- ==== Sys2Proof/Laws/Frame.lean ====
section
/-! SUPPORT. What each update leaves alone, so that an instruction's frame is the chain of its updates' frames. -/
namespace Sys2Proof.Machine

set_option Elab.async false

/-- Nothing has changed. -/
theorem Leaves.refl (c : Changes) (s : State) : Leaves c s s :=
  ⟨fun _ _ => rfl, fun _ _ => ⟨rfl, rfl⟩, fun _ _ => rfl, fun _ _ _ => rfl, fun _ _ _ => rfl, fun _ _ => rfl,
    ⟨fun _ h => h, fun _ h => .inl h⟩, Nat.le_refl _, fun _ => rfl, fun _ => rfl, ⟨rfl, rfl, rfl⟩, rfl⟩

/-! ### Registers -/

@[simp] theorem State.readGpr_setGpr_self (s : State) (r : Reg) (v : DWord) : (s.setGpr r v).readGpr r = v := by
  simp [State.readGpr]

theorem State.readGpr_setGpr_other (s : State) (r q : Reg) (v : DWord) (h : q ≠ r) : (s.setGpr r v).readGpr q = s.readGpr q := by
  have : r.toNat ≠ q.toNat := fun e => h (BitVec.eq_of_toNat_eq e.symm)
  simp [State.readGpr, this]

@[simp] theorem State.readFpr_setFpr_self (s : State) (r : Reg) (v : DWord) (b : Bool) : (s.setFpr r v b).readFpr r = v := by
  simp [State.readFpr]

theorem State.readFpr_setFpr_other (s : State) (r q : Reg) (v : DWord) (b : Bool) (h : q ≠ r) :
    (s.setFpr r v b).readFpr q = s.readFpr q := by
  have : r.toNat ≠ q.toNat := fun e => h (BitVec.eq_of_toNat_eq e.symm)
  simp [State.readFpr, this]

@[simp] theorem State.isSingle_setFpr_self (s : State) (r : Reg) (v : DWord) (b : Bool) : (s.setFpr r v b).isSingle r = b := by
  simp [State.isSingle]

theorem State.isSingle_setFpr_other (s : State) (r q : Reg) (v : DWord) (b : Bool) (h : q ≠ r) :
    (s.setFpr r v b).isSingle q = s.isSingle q := by
  have : r.toNat ≠ q.toNat := fun e => h (BitVec.eq_of_toNat_eq e.symm)
  simp [State.isSingle, this]

@[simp] theorem State.crField_setCrField_self (s : State) (n : FieldNum) (v : BitVec 4) : (s.setCrField n v).crField n = v := by
  have := n.isLt
  exact fld_setFld_self _ _ _ (by omega)

theorem State.crField_setCrField_other (s : State) (n q : FieldNum) (v : BitVec 4) (h : q ≠ n) :
    (s.setCrField n v).crField q = s.crField q := by
  have h1 := n.isLt
  have h2 := q.isLt
  have h3 : q.toNat ≠ n.toNat := fun e => h (BitVec.eq_of_toNat_eq e)
  exact fld_setFld_other _ _ _ _ _ (by omega) (by omega) (by omega)

/-- A bit of CR after a bit of it is replaced. -/
theorem State.crBit_setCrBit (s : State) (b n : BitNum) (v : Bool) :
    (s.setCrBit b v).crBit n = if n = b then v else s.crBit n := by
  have h1 := b.isLt
  have h2 := n.isLt
  unfold State.setCrBit State.crBit
  rw [State.setCr_cr, bitAt_setBitAt _ _ _ _ (by omega) (by omega)]
  by_cases h : n = b
  · simp [h]
  · have : n.toNat ≠ b.toNat := fun e => h (BitVec.eq_of_toNat_eq e)
    simp [h, this]

theorem State.crField_setCrBit_other (s : State) (b : BitNum) (v : Bool) (q : FieldNum) (h : q ≠ BitVec.ofNat 3 (b.toNat / 4)) :
    (s.setCrBit b v).crField q = s.crField q := by
  have h1 := b.isLt
  have h2 := q.isLt
  have h3 : q.toNat ≠ b.toNat / 4 := by
    intro e
    apply h
    apply BitVec.eq_of_toNat_eq
    simp only [BitVec.toNat_ofNat]
    omega
  exact fld_setFld_other _ _ _ _ _ (by omega) (by omega) (by omega)

/-! ### XER -/

@[simp] theorem State.ca_setCa (s : State) (b : Bool) : (s.setCa b).ca = b := bitAt_setBitAt_self _ _ _ (by omega)

@[simp] theorem State.so_setCa (s : State) (b : Bool) : (s.setCa b).so = s.so := by
  simp [State.so, State.setCa, bitAt_setBitAt]

@[simp] theorem State.ov_setCa (s : State) (b : Bool) : (s.setCa b).ov = s.ov := by
  simp [State.ov, State.setCa, bitAt_setBitAt]

@[simp] theorem State.ov_setOv (s : State) (b : Bool) : (s.setOv b).ov = b := by
  simp [State.ov, State.setOv, bitAt_setBitAt]

@[simp] theorem State.so_setOv (s : State) (b : Bool) : (s.setOv b).so = (s.so || b) := by
  simp [State.so, State.setOv, bitAt_setBitAt]

@[simp] theorem State.ca_setOv (s : State) (b : Bool) : (s.setOv b).ca = s.ca := by
  simp [State.ca, State.setOv, bitAt_setBitAt]

/-! ### Chains of updates -/

theorem Leaves.setGpr {c : Changes} {s t : State} (h : Leaves c s t) (r : Reg) (v : DWord) (hr : r ∈ c.gprs) :
    Leaves c s (t.setGpr r v) :=
  { h with gprs := fun q hq => by rw [State.readGpr_setGpr_other _ _ _ _ (by rintro rfl; exact hq hr)]; exact h.gprs q hq }

theorem Leaves.setFpr {c : Changes} {s t : State} (h : Leaves c s t) (r : Reg) (v : DWord) (b : Bool) (hr : r ∈ c.fprs) :
    Leaves c s (t.setFpr r v b) :=
  { h with
    fprs := fun q hq => by
      have hne : q ≠ r := by rintro rfl; exact hq hr
      rw [State.readFpr_setFpr_other _ _ _ _ _ hne, State.isSingle_setFpr_other _ _ _ _ _ hne]
      exact h.fprs q hq }

theorem Leaves.setCrField {c : Changes} {s t : State} (h : Leaves c s t) (n : FieldNum) (v : BitVec 4) (hn : n ∈ c.cr) :
    Leaves c s (t.setCrField n v) :=
  { h with cr := fun q hq => by rw [State.crField_setCrField_other _ _ _ _ (by rintro rfl; exact hq hn)]; exact h.cr q hq }

theorem Leaves.setCrBit {c : Changes} {s t : State} (h : Leaves c s t) (b : BitNum) (v : Bool)
    (hn : BitVec.ofNat 3 (b.toNat / 4) ∈ c.cr) : Leaves c s (t.setCrBit b v) :=
  { h with cr := fun q hq => by rw [State.crField_setCrBit_other _ _ _ _ (by rintro rfl; exact hq hn)]; exact h.cr q hq }

/-- Replacing CR as a whole, by a value whose fields not listed are as before. -/
theorem Leaves.setCr {c : Changes} {s t : State} (h : Leaves c s t) (v : Word)
    (hv : ∀ f : FieldNum, f ∉ c.cr → fld v (4 * f.toNat) 4 = t.crField f) : Leaves c s (t.setCr v) :=
  { h with cr := fun q hq => (hv q hq).trans (h.cr q hq) }

theorem Leaves.setXer {c : Changes} {s t : State} (h : Leaves c s t) (v : DWord)
    (hv : ∀ p : Nat, p < 64 → p ∉ c.xer → bitAt v p = bitAt t.xer p) : Leaves c s (t.setXer v) :=
  { h with xer := fun p hp hq => (hv p hp hq).trans (h.xer p hp hq) }

theorem Leaves.setFpscr {c : Changes} {s t : State} (h : Leaves c s t) (v : Word)
    (hv : ∀ p : Nat, p < 32 → p ∉ c.fpscr → bitAt v p = bitAt t.fpscr p) : Leaves c s (t.setFpscr v) :=
  { h with fpscr := fun p hp hq => (hv p hp hq).trans (h.fpscr p hp hq) }

theorem Leaves.setCa {c : Changes} {s t : State} (h : Leaves c s t) (b : Bool) (hb : 34 ∈ c.xer) : Leaves c s (t.setCa b) :=
  h.setXer _ (fun p hp hq => by rw [bitAt_setBitAt _ _ _ _ (by omega) hp, if_neg (by rintro rfl; exact hq hb)])

theorem Leaves.setOv {c : Changes} {s t : State} (h : Leaves c s t) (b : Bool) (h1 : 32 ∈ c.xer) (h2 : 33 ∈ c.xer) :
    Leaves c s (t.setOv b) :=
  h.setXer _ (fun p hp hq => by
    rw [bitAt_setBitAt _ _ _ _ (by omega) hp, if_neg (by rintro rfl; exact hq h1), bitAt_setBitAt _ _ _ _ (by omega) hp,
      if_neg (by rintro rfl; exact hq h2)])

theorem Leaves.setOvIf {c : Changes} {s t : State} (h : Leaves c s t) (oe b : Bool) (h1 : oe = true → 32 ∈ c.xer ∧ 33 ∈ c.xer) :
    Leaves c s (t.setOvIf oe b) := by
  unfold State.setOvIf
  split
  · next he => exact h.setOv b (h1 he).1 (h1 he).2
  · exact h

theorem Leaves.setCr0If {c : Changes} {s t : State} (h : Leaves c s t) (rc : Bool) (v : DWord) (h1 : rc = true → 0 ∈ c.cr) :
    Leaves c s (t.setCr0If rc v) := by
  unfold State.setCr0If
  split
  · next he => exact h.setCrField 0 _ (h1 he)
  · exact h

theorem Leaves.setCr1If {c : Changes} {s t : State} (h : Leaves c s t) (rc : Bool) (h1 : rc = true → 1 ∈ c.cr) :
    Leaves c s (t.setCr1If rc) := by
  unfold State.setCr1If
  split
  · next he => exact h.setCrField 1 _ (h1 he)
  · exact h

theorem Leaves.setLr {c : Changes} {s t : State} (h : Leaves c s t) (v : DWord) (hc : c.lr = true) : Leaves c s (t.setLr v) :=
  { h with lr := fun e => by rw [hc] at e; cases e }

theorem Leaves.setCtr {c : Changes} {s t : State} (h : Leaves c s t) (v : DWord) (hc : c.ctr = true) : Leaves c s (t.setCtr v) :=
  { h with ctr := fun e => by rw [hc] at e; cases e }

theorem Leaves.setPc {c : Changes} {s t : State} (h : Leaves c s t) (v : DWord) : Leaves c s (t.setPc v) := { h with }

theorem Leaves.advance {c : Changes} {s t : State} (h : Leaves c s t) : Leaves c s (advance t) := { h with }

theorem Leaves.drew {c : Changes} {s t : State} (h : Leaves c s t) (n : Nat) : Leaves c s (t.drew n) :=
  { h with draws := Nat.le_trans h.draws (Nat.le_add_right _ _) }

theorem Leaves.storeValue {c : Changes} {s t : State} (h : Leaves c s t) (ea : DWord) (n : Nat) (v : DWord)
    (hb : ∀ a ∈ t.operandAddrs ea n, a ∈ c.bytes) : Leaves c s (t.storeValue ea n v) where
  gprs q hq := by rw [State.storeValue_readGpr]; exact h.gprs q hq
  fprs q hq := by rw [State.storeValue_readFpr, State.storeValue_isSingle]; exact h.fprs q hq
  cr q hq := by have := h.cr q hq; simpa [State.crField] using this
  xer p hp hq := by rw [State.storeValue_xer]; exact h.xer p hp hq
  fpscr p hp hq := by rw [State.storeValue_fpscr]; exact h.fpscr p hp hq
  bytes a ha := by
    rw [State.readByte_storeValue_other _ _ _ _ _ (fun hm => ha (hb a hm))]
    exact h.bytes a ha
  modified := ⟨fun a ha => State.mem_storeValue_modified.mpr (.inr (h.modified.1 a ha)), fun a ha =>
    (State.mem_storeValue_modified.mp ha).elim (fun hm => .inr (hb a hm)) (h.modified.2 a)⟩
  draws := by rw [State.storeValue_draws]; exact h.draws
  lr e := by rw [State.storeValue_lr]; exact h.lr e
  ctr e := by rw [State.storeValue_ctr]; exact h.ctr e
  mode := by simpa [sameMode] using h.mode
  outcome := by rw [State.storeValue_outcome]; exact h.outcome

theorem Leaves.storeValues {c : Changes} {s t : State} (h : Leaves c s t) (w : Nat) (eas vs : List DWord)
    (hb : ∀ ea ∈ eas, ∀ a ∈ t.operandAddrs ea w, a ∈ c.bytes) : Leaves c s (t.storeValues w eas vs) := by
  induction eas generalizing t vs with
  | nil => exact h
  | cons ea eas ih =>
    cases vs with
    | nil => exact h
    | cons v vs =>
      refine ih (h.storeValue ea w v (hb ea (by simp))) vs ?_
      intro x hx a ha
      refine hb x (by simp [hx]) a ?_
      simpa [State.operandAddrs, State.byteAddr, State.littleEndian, State.sa] using ha

theorem Leaves.setGprs {c : Changes} {s t : State} (h : Leaves c s t) (r : Reg) (vs : List DWord)
    (hr : ∀ k < vs.length, r + BitVec.ofNat 5 k ∈ c.gprs) : Leaves c s (t.setGprs r vs) := by
  induction vs generalizing t r with
  | nil => exact h
  | cons v vs ih =>
    refine ih (h.setGpr r v ?_) (r + 1) ?_
    · have := hr 0 (by simp)
      simpa using this
    · intro k hk
      have := hr (k + 1) (by simpa using hk)
      have e : r + 1 + BitVec.ofNat 5 k = r + BitVec.ofNat 5 (k + 1) := by
        rw [BitVec.add_assoc]
        congr 1
        apply BitVec.eq_of_toNat_eq
        rw [BitVec.toNat_add, BitVec.toNat_ofNat, BitVec.toNat_ofNat, show (1 : BitVec 5).toNat = 1 from rfl]
        omega
      rwa [e]

/-! ### Completion -/

/-- Completion from a state of the same mode goes to the next sequential instruction. -/
theorem nextPc_of_leaves {c : Changes} {s t : State} (h : Leaves c s t) (hp : t.pc = s.pc) : (advance t).pc = s.nextPc := by
  show t.nextPc = s.nextPc
  simp only [State.nextPc, State.iea, State.sa, hp, h.mode.2.2]

/-- An instruction that completes after a chain of updates. -/
theorem completesWith_advance {c : Changes} {s t : State} {P : State → Prop} (h : Leaves c s t) (hp : t.pc = s.pc)
    (hm : ∀ a ∈ c.bytes, a ∈ t.modified) (hP : P (advance t)) : completesWith (.next (advance t)) s c P :=
  ⟨_, rfl, nextPc_of_leaves h hp, h.advance, hm, hP⟩

/-- A store of one scalar that completes: its bytes are those entered among the modified ones. -/
theorem completesWith_store {c : Changes} {s : State} {P : State → Prop} (ea : DWord) (n : Nat) (v : DWord)
    (hc : c.bytes = s.operandAddrs ea n) (hP : P (advance (s.storeValue ea n v))) :
    completesWith (.next (advance (s.storeValue ea n v))) s c P :=
  completesWith_advance ((Leaves.refl c s).storeValue ea n v (fun a ha => hc ▸ ha)) (by simp)
    (fun a ha => State.mem_storeValue_modified.mpr (.inl (hc ▸ ha))) hP

/-! ### Accesses -/

/-- An operand that may be accessed raises no exception. -/
theorem accessFault_of_accessible {k : Access} {ea : DWord} {n : Nat} {s : State} (h : accessible k ea n s) :
    s.accessFault k ea n = none := by
  rw [State.accessFault_none]
  refine ⟨?_, ?_⟩
  · have := h.1
    unfold State.misaligned aligned
    cases hu : s.params.unaligned with
    | perform => simp
    | fault => simp [this hu]
  · intro a ha
    obtain ⟨i, hi, rfl⟩ := State.mem_checkedAddrs.mp ha
    exact h.2 i hi

theorem bytesOf_loaded (s : State) (ea : DWord) (n : Nat) (hn : n ≤ 8) : holdsBytes (s.loadValue ea n) ea n s :=
  fun i hi => (s.byteOf_loadValue ea n i hn hi).symm

end Sys2Proof.Machine
end

