-- ==== Sys2Proof/Laws/PerInstr.lean ====
section
/-! SUPPORT. Per-instruction laws: the word an instruction is encoded in carries the opcode bits of a row of the table, and
that row's decoder gives the instruction back. -/
namespace Sys2Proof.Laws
open Sys2Proof Machine

set_option Elab.async false

/-- The encoding of `i` is covered by a row of the opcode table whose fields are those of `i`. -/
def RowOfEncoding.Statement (i : Instr) : Prop := ∃ r ∈ rows, r.covers (encode i) = true ∧ r.build (encode i) = i

/-- A row at a known place of the table. -/
theorem row_at (i : Instr) (k : Nat) (r : Row) (hk : rows[k]? = some r) (hc : r.covers (encode i) = true)
    (hb : r.build (encode i) = i) : RowOfEncoding.Statement i :=
  ⟨r, List.mem_of_getElem? hk, hc, hb⟩

theorem RowOfEncoding.b (li : BitVec 24) (aa : Bool) (lk : Bool) : RowOfEncoding.Statement (.b li aa lk) :=
  row_at _ 0 _ rfl (by simp only [encode, Row.covers, encI_and_FC000000]; rfl) (by
    simp only [encode, encI_fld_6_24, encI_bit_30, encI_bit_31])

theorem RowOfEncoding.bc (bo : BitVec 5) (bi : BitVec 5) (bd : BitVec 14) (aa : Bool) (lk : Bool) : RowOfEncoding.Statement (.bc bo bi bd aa lk) :=
  row_at _ 1 _ rfl (by simp only [encode, Row.covers, encB_and_FC000000]; rfl) (by
    simp only [encode, encB_fld_6_5, encB_fld_11_5, encB_fld_16_14, encB_bit_30, encB_bit_31])

theorem RowOfEncoding.bclr (bo : BitVec 5) (bi : BitVec 5) (bh : BitVec 2) (lk : Bool) : RowOfEncoding.Statement (.bclr bo bi bh lk) :=
  row_at _ 2 _ rfl (by simp only [encode, Row.covers, encX_and_FC0007FE]; rfl) (by
    simp only [encode, encX_fld_6_5, encX_fld_11_5, encX_fld_19_2, encX_bit_31, fld_fill_bh])

theorem RowOfEncoding.bcctr (bo : BitVec 5) (bi : BitVec 5) (bh : BitVec 2) (lk : Bool) : RowOfEncoding.Statement (.bcctr bo bi bh lk) :=
  row_at _ 3 _ rfl (by simp only [encode, Row.covers, encX_and_FC0007FE]; rfl) (by
    simp only [encode, encX_fld_6_5, encX_fld_11_5, encX_fld_19_2, encX_bit_31, fld_fill_bh])

theorem RowOfEncoding.sc (lev : BitVec 7) (one : Bool) : RowOfEncoding.Statement (.sc lev one) :=
  row_at _ 4 _ rfl (by simp only [encode, Row.covers, encSC_and_FC000000]; rfl) (by
    simp only [encode, encSC_fld_20_7, encSC_bit_30])

theorem RowOfEncoding.crand (bt : BitVec 5) (ba : BitVec 5) (bb : BitVec 5) : RowOfEncoding.Statement (.crand bt ba bb) :=
  row_at _ 5 _ rfl (by simp only [encode, Row.covers, encX_and_FC0007FE]; rfl) (by
    simp only [encode, encX_fld_6_5, encX_fld_11_5, encX_fld_16_5])

theorem RowOfEncoding.cror (bt : BitVec 5) (ba : BitVec 5) (bb : BitVec 5) : RowOfEncoding.Statement (.cror bt ba bb) :=
  row_at _ 6 _ rfl (by simp only [encode, Row.covers, encX_and_FC0007FE]; rfl) (by
    simp only [encode, encX_fld_6_5, encX_fld_11_5, encX_fld_16_5])

theorem RowOfEncoding.crxor (bt : BitVec 5) (ba : BitVec 5) (bb : BitVec 5) : RowOfEncoding.Statement (.crxor bt ba bb) :=
  row_at _ 7 _ rfl (by simp only [encode, Row.covers, encX_and_FC0007FE]; rfl) (by
    simp only [encode, encX_fld_6_5, encX_fld_11_5, encX_fld_16_5])

theorem RowOfEncoding.crnand (bt : BitVec 5) (ba : BitVec 5) (bb : BitVec 5) : RowOfEncoding.Statement (.crnand bt ba bb) :=
  row_at _ 8 _ rfl (by simp only [encode, Row.covers, encX_and_FC0007FE]; rfl) (by
    simp only [encode, encX_fld_6_5, encX_fld_11_5, encX_fld_16_5])

theorem RowOfEncoding.crnor (bt : BitVec 5) (ba : BitVec 5) (bb : BitVec 5) : RowOfEncoding.Statement (.crnor bt ba bb) :=
  row_at _ 9 _ rfl (by simp only [encode, Row.covers, encX_and_FC0007FE]; rfl) (by
    simp only [encode, encX_fld_6_5, encX_fld_11_5, encX_fld_16_5])

theorem RowOfEncoding.creqv (bt : BitVec 5) (ba : BitVec 5) (bb : BitVec 5) : RowOfEncoding.Statement (.creqv bt ba bb) :=
  row_at _ 10 _ rfl (by simp only [encode, Row.covers, encX_and_FC0007FE]; rfl) (by
    simp only [encode, encX_fld_6_5, encX_fld_11_5, encX_fld_16_5])

theorem RowOfEncoding.crandc (bt : BitVec 5) (ba : BitVec 5) (bb : BitVec 5) : RowOfEncoding.Statement (.crandc bt ba bb) :=
  row_at _ 11 _ rfl (by simp only [encode, Row.covers, encX_and_FC0007FE]; rfl) (by
    simp only [encode, encX_fld_6_5, encX_fld_11_5, encX_fld_16_5])

theorem RowOfEncoding.crorc (bt : BitVec 5) (ba : BitVec 5) (bb : BitVec 5) : RowOfEncoding.Statement (.crorc bt ba bb) :=
  row_at _ 12 _ rfl (by simp only [encode, Row.covers, encX_and_FC0007FE]; rfl) (by
    simp only [encode, encX_fld_6_5, encX_fld_11_5, encX_fld_16_5])

theorem RowOfEncoding.mcrf (bf : BitVec 3) (bfa : BitVec 3) : RowOfEncoding.Statement (.mcrf bf bfa) :=
  row_at _ 13 _ rfl (by simp only [encode, Row.covers, encX_and_FC0007FE]; rfl) (by
    simp only [encode, encX_fld_6_3, encX_fld_11_3, fld_bf_fill])

theorem RowOfEncoding.lbz (rt : BitVec 5) (d : BitVec 16) (ra : BitVec 5) : RowOfEncoding.Statement (.lbz rt d ra) :=
  row_at _ 14 _ rfl (by simp only [encode, Row.covers, encD_and_FC000000]; rfl) (by
    simp only [encode, encD_fld_6_5, encD_fld_16_16, encD_fld_11_5])

theorem RowOfEncoding.lbzx (rt : BitVec 5) (ra : BitVec 5) (rb : BitVec 5) : RowOfEncoding.Statement (.lbzx rt ra rb) :=
  row_at _ 15 _ rfl (by simp only [encode, Row.covers, encX_and_FC0007FE]; rfl) (by
    simp only [encode, encX_fld_6_5, encX_fld_11_5, encX_fld_16_5])

theorem RowOfEncoding.lbzu (rt : BitVec 5) (d : BitVec 16) (ra : BitVec 5) : RowOfEncoding.Statement (.lbzu rt d ra) :=
  row_at _ 16 _ rfl (by simp only [encode, Row.covers, encD_and_FC000000]; rfl) (by
    simp only [encode, encD_fld_6_5, encD_fld_16_16, encD_fld_11_5])

theorem RowOfEncoding.lbzux (rt : BitVec 5) (ra : BitVec 5) (rb : BitVec 5) : RowOfEncoding.Statement (.lbzux rt ra rb) :=
  row_at _ 17 _ rfl (by simp only [encode, Row.covers, encX_and_FC0007FE]; rfl) (by
    simp only [encode, encX_fld_6_5, encX_fld_11_5, encX_fld_16_5])

theorem RowOfEncoding.lhz (rt : BitVec 5) (d : BitVec 16) (ra : BitVec 5) : RowOfEncoding.Statement (.lhz rt d ra) :=
  row_at _ 18 _ rfl (by simp only [encode, Row.covers, encD_and_FC000000]; rfl) (by
    simp only [encode, encD_fld_6_5, encD_fld_16_16, encD_fld_11_5])

theorem RowOfEncoding.lhzx (rt : BitVec 5) (ra : BitVec 5) (rb : BitVec 5) : RowOfEncoding.Statement (.lhzx rt ra rb) :=
  row_at _ 19 _ rfl (by simp only [encode, Row.covers, encX_and_FC0007FE]; rfl) (by
    simp only [encode, encX_fld_6_5, encX_fld_11_5, encX_fld_16_5])

theorem RowOfEncoding.lhzu (rt : BitVec 5) (d : BitVec 16) (ra : BitVec 5) : RowOfEncoding.Statement (.lhzu rt d ra) :=
  row_at _ 20 _ rfl (by simp only [encode, Row.covers, encD_and_FC000000]; rfl) (by
    simp only [encode, encD_fld_6_5, encD_fld_16_16, encD_fld_11_5])

theorem RowOfEncoding.lhzux (rt : BitVec 5) (ra : BitVec 5) (rb : BitVec 5) : RowOfEncoding.Statement (.lhzux rt ra rb) :=
  row_at _ 21 _ rfl (by simp only [encode, Row.covers, encX_and_FC0007FE]; rfl) (by
    simp only [encode, encX_fld_6_5, encX_fld_11_5, encX_fld_16_5])

theorem RowOfEncoding.lha (rt : BitVec 5) (d : BitVec 16) (ra : BitVec 5) : RowOfEncoding.Statement (.lha rt d ra) :=
  row_at _ 22 _ rfl (by simp only [encode, Row.covers, encD_and_FC000000]; rfl) (by
    simp only [encode, encD_fld_6_5, encD_fld_16_16, encD_fld_11_5])

theorem RowOfEncoding.lhax (rt : BitVec 5) (ra : BitVec 5) (rb : BitVec 5) : RowOfEncoding.Statement (.lhax rt ra rb) :=
  row_at _ 23 _ rfl (by simp only [encode, Row.covers, encX_and_FC0007FE]; rfl) (by
    simp only [encode, encX_fld_6_5, encX_fld_11_5, encX_fld_16_5])

theorem RowOfEncoding.lhau (rt : BitVec 5) (d : BitVec 16) (ra : BitVec 5) : RowOfEncoding.Statement (.lhau rt d ra) :=
  row_at _ 24 _ rfl (by simp only [encode, Row.covers, encD_and_FC000000]; rfl) (by
    simp only [encode, encD_fld_6_5, encD_fld_16_16, encD_fld_11_5])

theorem RowOfEncoding.lhaux (rt : BitVec 5) (ra : BitVec 5) (rb : BitVec 5) : RowOfEncoding.Statement (.lhaux rt ra rb) :=
  row_at _ 25 _ rfl (by simp only [encode, Row.covers, encX_and_FC0007FE]; rfl) (by
    simp only [encode, encX_fld_6_5, encX_fld_11_5, encX_fld_16_5])

theorem RowOfEncoding.lwz (rt : BitVec 5) (d : BitVec 16) (ra : BitVec 5) : RowOfEncoding.Statement (.lwz rt d ra) :=
  row_at _ 26 _ rfl (by simp only [encode, Row.covers, encD_and_FC000000]; rfl) (by
    simp only [encode, encD_fld_6_5, encD_fld_16_16, encD_fld_11_5])

theorem RowOfEncoding.lwzx (rt : BitVec 5) (ra : BitVec 5) (rb : BitVec 5) : RowOfEncoding.Statement (.lwzx rt ra rb) :=
  row_at _ 27 _ rfl (by simp only [encode, Row.covers, encX_and_FC0007FE]; rfl) (by
    simp only [encode, encX_fld_6_5, encX_fld_11_5, encX_fld_16_5])

theorem RowOfEncoding.lwzu (rt : BitVec 5) (d : BitVec 16) (ra : BitVec 5) : RowOfEncoding.Statement (.lwzu rt d ra) :=
  row_at _ 28 _ rfl (by simp only [encode, Row.covers, encD_and_FC000000]; rfl) (by
    simp only [encode, encD_fld_6_5, encD_fld_16_16, encD_fld_11_5])

theorem RowOfEncoding.lwzux (rt : BitVec 5) (ra : BitVec 5) (rb : BitVec 5) : RowOfEncoding.Statement (.lwzux rt ra rb) :=
  row_at _ 29 _ rfl (by simp only [encode, Row.covers, encX_and_FC0007FE]; rfl) (by
    simp only [encode, encX_fld_6_5, encX_fld_11_5, encX_fld_16_5])

theorem RowOfEncoding.lwa (rt : BitVec 5) (ds : BitVec 14) (ra : BitVec 5) : RowOfEncoding.Statement (.lwa rt ds ra) :=
  row_at _ 30 _ rfl (by simp only [encode, Row.covers, encDS_and_FC000003]; rfl) (by
    simp only [encode, encDS_fld_6_5, encDS_fld_16_14, encDS_fld_11_5])

theorem RowOfEncoding.lwax (rt : BitVec 5) (ra : BitVec 5) (rb : BitVec 5) : RowOfEncoding.Statement (.lwax rt ra rb) :=
  row_at _ 31 _ rfl (by simp only [encode, Row.covers, encX_and_FC0007FE]; rfl) (by
    simp only [encode, encX_fld_6_5, encX_fld_11_5, encX_fld_16_5])

theorem RowOfEncoding.lwaux (rt : BitVec 5) (ra : BitVec 5) (rb : BitVec 5) : RowOfEncoding.Statement (.lwaux rt ra rb) :=
  row_at _ 32 _ rfl (by simp only [encode, Row.covers, encX_and_FC0007FE]; rfl) (by
    simp only [encode, encX_fld_6_5, encX_fld_11_5, encX_fld_16_5])

theorem RowOfEncoding.ld (rt : BitVec 5) (ds : BitVec 14) (ra : BitVec 5) : RowOfEncoding.Statement (.ld rt ds ra) :=
  row_at _ 33 _ rfl (by simp only [encode, Row.covers, encDS_and_FC000003]; rfl) (by
    simp only [encode, encDS_fld_6_5, encDS_fld_16_14, encDS_fld_11_5])

theorem RowOfEncoding.ldx (rt : BitVec 5) (ra : BitVec 5) (rb : BitVec 5) : RowOfEncoding.Statement (.ldx rt ra rb) :=
  row_at _ 34 _ rfl (by simp only [encode, Row.covers, encX_and_FC0007FE]; rfl) (by
    simp only [encode, encX_fld_6_5, encX_fld_11_5, encX_fld_16_5])

theorem RowOfEncoding.ldu (rt : BitVec 5) (ds : BitVec 14) (ra : BitVec 5) : RowOfEncoding.Statement (.ldu rt ds ra) :=
  row_at _ 35 _ rfl (by simp only [encode, Row.covers, encDS_and_FC000003]; rfl) (by
    simp only [encode, encDS_fld_6_5, encDS_fld_16_14, encDS_fld_11_5])

theorem RowOfEncoding.ldux (rt : BitVec 5) (ra : BitVec 5) (rb : BitVec 5) : RowOfEncoding.Statement (.ldux rt ra rb) :=
  row_at _ 36 _ rfl (by simp only [encode, Row.covers, encX_and_FC0007FE]; rfl) (by
    simp only [encode, encX_fld_6_5, encX_fld_11_5, encX_fld_16_5])

theorem RowOfEncoding.stb (rs : BitVec 5) (d : BitVec 16) (ra : BitVec 5) : RowOfEncoding.Statement (.stb rs d ra) :=
  row_at _ 37 _ rfl (by simp only [encode, Row.covers, encD_and_FC000000]; rfl) (by
    simp only [encode, encD_fld_6_5, encD_fld_16_16, encD_fld_11_5])

theorem RowOfEncoding.stbx (rs : BitVec 5) (ra : BitVec 5) (rb : BitVec 5) : RowOfEncoding.Statement (.stbx rs ra rb) :=
  row_at _ 38 _ rfl (by simp only [encode, Row.covers, encX_and_FC0007FE]; rfl) (by
    simp only [encode, encX_fld_6_5, encX_fld_11_5, encX_fld_16_5])

theorem RowOfEncoding.stbu (rs : BitVec 5) (d : BitVec 16) (ra : BitVec 5) : RowOfEncoding.Statement (.stbu rs d ra) :=
  row_at _ 39 _ rfl (by simp only [encode, Row.covers, encD_and_FC000000]; rfl) (by
    simp only [encode, encD_fld_6_5, encD_fld_16_16, encD_fld_11_5])

theorem RowOfEncoding.stbux (rs : BitVec 5) (ra : BitVec 5) (rb : BitVec 5) : RowOfEncoding.Statement (.stbux rs ra rb) :=
  row_at _ 40 _ rfl (by simp only [encode, Row.covers, encX_and_FC0007FE]; rfl) (by
    simp only [encode, encX_fld_6_5, encX_fld_11_5, encX_fld_16_5])

theorem RowOfEncoding.sth (rs : BitVec 5) (d : BitVec 16) (ra : BitVec 5) : RowOfEncoding.Statement (.sth rs d ra) :=
  row_at _ 41 _ rfl (by simp only [encode, Row.covers, encD_and_FC000000]; rfl) (by
    simp only [encode, encD_fld_6_5, encD_fld_16_16, encD_fld_11_5])

theorem RowOfEncoding.sthx (rs : BitVec 5) (ra : BitVec 5) (rb : BitVec 5) : RowOfEncoding.Statement (.sthx rs ra rb) :=
  row_at _ 42 _ rfl (by simp only [encode, Row.covers, encX_and_FC0007FE]; rfl) (by
    simp only [encode, encX_fld_6_5, encX_fld_11_5, encX_fld_16_5])

theorem RowOfEncoding.sthu (rs : BitVec 5) (d : BitVec 16) (ra : BitVec 5) : RowOfEncoding.Statement (.sthu rs d ra) :=
  row_at _ 43 _ rfl (by simp only [encode, Row.covers, encD_and_FC000000]; rfl) (by
    simp only [encode, encD_fld_6_5, encD_fld_16_16, encD_fld_11_5])

theorem RowOfEncoding.sthux (rs : BitVec 5) (ra : BitVec 5) (rb : BitVec 5) : RowOfEncoding.Statement (.sthux rs ra rb) :=
  row_at _ 44 _ rfl (by simp only [encode, Row.covers, encX_and_FC0007FE]; rfl) (by
    simp only [encode, encX_fld_6_5, encX_fld_11_5, encX_fld_16_5])

theorem RowOfEncoding.stw (rs : BitVec 5) (d : BitVec 16) (ra : BitVec 5) : RowOfEncoding.Statement (.stw rs d ra) :=
  row_at _ 45 _ rfl (by simp only [encode, Row.covers, encD_and_FC000000]; rfl) (by
    simp only [encode, encD_fld_6_5, encD_fld_16_16, encD_fld_11_5])

theorem RowOfEncoding.stwx (rs : BitVec 5) (ra : BitVec 5) (rb : BitVec 5) : RowOfEncoding.Statement (.stwx rs ra rb) :=
  row_at _ 46 _ rfl (by simp only [encode, Row.covers, encX_and_FC0007FE]; rfl) (by
    simp only [encode, encX_fld_6_5, encX_fld_11_5, encX_fld_16_5])

theorem RowOfEncoding.stwu (rs : BitVec 5) (d : BitVec 16) (ra : BitVec 5) : RowOfEncoding.Statement (.stwu rs d ra) :=
  row_at _ 47 _ rfl (by simp only [encode, Row.covers, encD_and_FC000000]; rfl) (by
    simp only [encode, encD_fld_6_5, encD_fld_16_16, encD_fld_11_5])

theorem RowOfEncoding.stwux (rs : BitVec 5) (ra : BitVec 5) (rb : BitVec 5) : RowOfEncoding.Statement (.stwux rs ra rb) :=
  row_at _ 48 _ rfl (by simp only [encode, Row.covers, encX_and_FC0007FE]; rfl) (by
    simp only [encode, encX_fld_6_5, encX_fld_11_5, encX_fld_16_5])

theorem RowOfEncoding.std (rs : BitVec 5) (ds : BitVec 14) (ra : BitVec 5) : RowOfEncoding.Statement (.std rs ds ra) :=
  row_at _ 49 _ rfl (by simp only [encode, Row.covers, encDS_and_FC000003]; rfl) (by
    simp only [encode, encDS_fld_6_5, encDS_fld_16_14, encDS_fld_11_5])

theorem RowOfEncoding.stdx (rs : BitVec 5) (ra : BitVec 5) (rb : BitVec 5) : RowOfEncoding.Statement (.stdx rs ra rb) :=
  row_at _ 50 _ rfl (by simp only [encode, Row.covers, encX_and_FC0007FE]; rfl) (by
    simp only [encode, encX_fld_6_5, encX_fld_11_5, encX_fld_16_5])

theorem RowOfEncoding.stdu (rs : BitVec 5) (ds : BitVec 14) (ra : BitVec 5) : RowOfEncoding.Statement (.stdu rs ds ra) :=
  row_at _ 51 _ rfl (by simp only [encode, Row.covers, encDS_and_FC000003]; rfl) (by
    simp only [encode, encDS_fld_6_5, encDS_fld_16_14, encDS_fld_11_5])

theorem RowOfEncoding.stdux (rs : BitVec 5) (ra : BitVec 5) (rb : BitVec 5) : RowOfEncoding.Statement (.stdux rs ra rb) :=
  row_at _ 52 _ rfl (by simp only [encode, Row.covers, encX_and_FC0007FE]; rfl) (by
    simp only [encode, encX_fld_6_5, encX_fld_11_5, encX_fld_16_5])

theorem RowOfEncoding.lhbrx (rt : BitVec 5) (ra : BitVec 5) (rb : BitVec 5) : RowOfEncoding.Statement (.lhbrx rt ra rb) :=
  row_at _ 53 _ rfl (by simp only [encode, Row.covers, encX_and_FC0007FE]; rfl) (by
    simp only [encode, encX_fld_6_5, encX_fld_11_5, encX_fld_16_5])

theorem RowOfEncoding.lwbrx (rt : BitVec 5) (ra : BitVec 5) (rb : BitVec 5) : RowOfEncoding.Statement (.lwbrx rt ra rb) :=
  row_at _ 54 _ rfl (by simp only [encode, Row.covers, encX_and_FC0007FE]; rfl) (by
    simp only [encode, encX_fld_6_5, encX_fld_11_5, encX_fld_16_5])

theorem RowOfEncoding.sthbrx (rs : BitVec 5) (ra : BitVec 5) (rb : BitVec 5) : RowOfEncoding.Statement (.sthbrx rs ra rb) :=
  row_at _ 55 _ rfl (by simp only [encode, Row.covers, encX_and_FC0007FE]; rfl) (by
    simp only [encode, encX_fld_6_5, encX_fld_11_5, encX_fld_16_5])

theorem RowOfEncoding.stwbrx (rs : BitVec 5) (ra : BitVec 5) (rb : BitVec 5) : RowOfEncoding.Statement (.stwbrx rs ra rb) :=
  row_at _ 56 _ rfl (by simp only [encode, Row.covers, encX_and_FC0007FE]; rfl) (by
    simp only [encode, encX_fld_6_5, encX_fld_11_5, encX_fld_16_5])

theorem RowOfEncoding.lmw (rt : BitVec 5) (d : BitVec 16) (ra : BitVec 5) : RowOfEncoding.Statement (.lmw rt d ra) :=
  row_at _ 57 _ rfl (by simp only [encode, Row.covers, encD_and_FC000000]; rfl) (by
    simp only [encode, encD_fld_6_5, encD_fld_16_16, encD_fld_11_5])

theorem RowOfEncoding.stmw (rs : BitVec 5) (d : BitVec 16) (ra : BitVec 5) : RowOfEncoding.Statement (.stmw rs d ra) :=
  row_at _ 58 _ rfl (by simp only [encode, Row.covers, encD_and_FC000000]; rfl) (by
    simp only [encode, encD_fld_6_5, encD_fld_16_16, encD_fld_11_5])

theorem RowOfEncoding.lswi (rt : BitVec 5) (ra : BitVec 5) (nb : BitVec 5) : RowOfEncoding.Statement (.lswi rt ra nb) :=
  row_at _ 59 _ rfl (by simp only [encode, Row.covers, encX_and_FC0007FE]; rfl) (by
    simp only [encode, encX_fld_6_5, encX_fld_11_5, encX_fld_16_5])

theorem RowOfEncoding.lswx (rt : BitVec 5) (ra : BitVec 5) (rb : BitVec 5) : RowOfEncoding.Statement (.lswx rt ra rb) :=
  row_at _ 60 _ rfl (by simp only [encode, Row.covers, encX_and_FC0007FE]; rfl) (by
    simp only [encode, encX_fld_6_5, encX_fld_11_5, encX_fld_16_5])

theorem RowOfEncoding.stswi (rs : BitVec 5) (ra : BitVec 5) (nb : BitVec 5) : RowOfEncoding.Statement (.stswi rs ra nb) :=
  row_at _ 61 _ rfl (by simp only [encode, Row.covers, encX_and_FC0007FE]; rfl) (by
    simp only [encode, encX_fld_6_5, encX_fld_11_5, encX_fld_16_5])

theorem RowOfEncoding.stswx (rs : BitVec 5) (ra : BitVec 5) (rb : BitVec 5) : RowOfEncoding.Statement (.stswx rs ra rb) :=
  row_at _ 62 _ rfl (by simp only [encode, Row.covers, encX_and_FC0007FE]; rfl) (by
    simp only [encode, encX_fld_6_5, encX_fld_11_5, encX_fld_16_5])

theorem RowOfEncoding.addi (rt : BitVec 5) (ra : BitVec 5) (si : BitVec 16) : RowOfEncoding.Statement (.addi rt ra si) :=
  row_at _ 63 _ rfl (by simp only [encode, Row.covers, encD_and_FC000000]; rfl) (by
    simp only [encode, encD_fld_6_5, encD_fld_11_5, encD_fld_16_16])

theorem RowOfEncoding.addis (rt : BitVec 5) (ra : BitVec 5) (si : BitVec 16) : RowOfEncoding.Statement (.addis rt ra si) :=
  row_at _ 64 _ rfl (by simp only [encode, Row.covers, encD_and_FC000000]; rfl) (by
    simp only [encode, encD_fld_6_5, encD_fld_11_5, encD_fld_16_16])

theorem RowOfEncoding.add (rt : BitVec 5) (ra : BitVec 5) (rb : BitVec 5) (oe : Bool) (rc : Bool) : RowOfEncoding.Statement (.add rt ra rb oe rc) :=
  row_at _ 65 _ rfl (by simp only [encode, Row.covers, encXO_and_FC0003FE]; rfl) (by
    simp only [encode, encXO_fld_6_5, encXO_fld_11_5, encXO_fld_16_5, encXO_bit_21, encXO_bit_31])

theorem RowOfEncoding.subf (rt : BitVec 5) (ra : BitVec 5) (rb : BitVec 5) (oe : Bool) (rc : Bool) : RowOfEncoding.Statement (.subf rt ra rb oe rc) :=
  row_at _ 66 _ rfl (by simp only [encode, Row.covers, encXO_and_FC0003FE]; rfl) (by
    simp only [encode, encXO_fld_6_5, encXO_fld_11_5, encXO_fld_16_5, encXO_bit_21, encXO_bit_31])

theorem RowOfEncoding.addic (rt : BitVec 5) (ra : BitVec 5) (si : BitVec 16) : RowOfEncoding.Statement (.addic rt ra si) :=
  row_at _ 67 _ rfl (by simp only [encode, Row.covers, encD_and_FC000000]; rfl) (by
    simp only [encode, encD_fld_6_5, encD_fld_11_5, encD_fld_16_16])

theorem RowOfEncoding.addicRc (rt : BitVec 5) (ra : BitVec 5) (si : BitVec 16) : RowOfEncoding.Statement (.addicRc rt ra si) :=
  row_at _ 68 _ rfl (by simp only [encode, Row.covers, encD_and_FC000000]; rfl) (by
    simp only [encode, encD_fld_6_5, encD_fld_11_5, encD_fld_16_16])

theorem RowOfEncoding.subfic (rt : BitVec 5) (ra : BitVec 5) (si : BitVec 16) : RowOfEncoding.Statement (.subfic rt ra si) :=
  row_at _ 69 _ rfl (by simp only [encode, Row.covers, encD_and_FC000000]; rfl) (by
    simp only [encode, encD_fld_6_5, encD_fld_11_5, encD_fld_16_16])

theorem RowOfEncoding.addc (rt : BitVec 5) (ra : BitVec 5) (rb : BitVec 5) (oe : Bool) (rc : Bool) : RowOfEncoding.Statement (.addc rt ra rb oe rc) :=
  row_at _ 70 _ rfl (by simp only [encode, Row.covers, encXO_and_FC0003FE]; rfl) (by
    simp only [encode, encXO_fld_6_5, encXO_fld_11_5, encXO_fld_16_5, encXO_bit_21, encXO_bit_31])

theorem RowOfEncoding.subfc (rt : BitVec 5) (ra : BitVec 5) (rb : BitVec 5) (oe : Bool) (rc : Bool) : RowOfEncoding.Statement (.subfc rt ra rb oe rc) :=
  row_at _ 71 _ rfl (by simp only [encode, Row.covers, encXO_and_FC0003FE]; rfl) (by
    simp only [encode, encXO_fld_6_5, encXO_fld_11_5, encXO_fld_16_5, encXO_bit_21, encXO_bit_31])

theorem RowOfEncoding.adde (rt : BitVec 5) (ra : BitVec 5) (rb : BitVec 5) (oe : Bool) (rc : Bool) : RowOfEncoding.Statement (.adde rt ra rb oe rc) :=
  row_at _ 72 _ rfl (by simp only [encode, Row.covers, encXO_and_FC0003FE]; rfl) (by
    simp only [encode, encXO_fld_6_5, encXO_fld_11_5, encXO_fld_16_5, encXO_bit_21, encXO_bit_31])

theorem RowOfEncoding.subfe (rt : BitVec 5) (ra : BitVec 5) (rb : BitVec 5) (oe : Bool) (rc : Bool) : RowOfEncoding.Statement (.subfe rt ra rb oe rc) :=
  row_at _ 73 _ rfl (by simp only [encode, Row.covers, encXO_and_FC0003FE]; rfl) (by
    simp only [encode, encXO_fld_6_5, encXO_fld_11_5, encXO_fld_16_5, encXO_bit_21, encXO_bit_31])

theorem RowOfEncoding.addme (rt : BitVec 5) (ra : BitVec 5) (oe : Bool) (rc : Bool) : RowOfEncoding.Statement (.addme rt ra oe rc) :=
  row_at _ 74 _ rfl (by simp only [encode, Row.covers, encXO_and_FC0003FE]; rfl) (by
    simp only [encode, encXO_fld_6_5, encXO_fld_11_5, encXO_bit_21, encXO_bit_31])

theorem RowOfEncoding.subfme (rt : BitVec 5) (ra : BitVec 5) (oe : Bool) (rc : Bool) : RowOfEncoding.Statement (.subfme rt ra oe rc) :=
  row_at _ 75 _ rfl (by simp only [encode, Row.covers, encXO_and_FC0003FE]; rfl) (by
    simp only [encode, encXO_fld_6_5, encXO_fld_11_5, encXO_bit_21, encXO_bit_31])

theorem RowOfEncoding.addze (rt : BitVec 5) (ra : BitVec 5) (oe : Bool) (rc : Bool) : RowOfEncoding.Statement (.addze rt ra oe rc) :=
  row_at _ 76 _ rfl (by simp only [encode, Row.covers, encXO_and_FC0003FE]; rfl) (by
    simp only [encode, encXO_fld_6_5, encXO_fld_11_5, encXO_bit_21, encXO_bit_31])

theorem RowOfEncoding.subfze (rt : BitVec 5) (ra : BitVec 5) (oe : Bool) (rc : Bool) : RowOfEncoding.Statement (.subfze rt ra oe rc) :=
  row_at _ 77 _ rfl (by simp only [encode, Row.covers, encXO_and_FC0003FE]; rfl) (by
    simp only [encode, encXO_fld_6_5, encXO_fld_11_5, encXO_bit_21, encXO_bit_31])

theorem RowOfEncoding.neg (rt : BitVec 5) (ra : BitVec 5) (oe : Bool) (rc : Bool) : RowOfEncoding.Statement (.neg rt ra oe rc) :=
  row_at _ 78 _ rfl (by simp only [encode, Row.covers, encXO_and_FC0003FE]; rfl) (by
    simp only [encode, encXO_fld_6_5, encXO_fld_11_5, encXO_bit_21, encXO_bit_31])

theorem RowOfEncoding.mulli (rt : BitVec 5) (ra : BitVec 5) (si : BitVec 16) : RowOfEncoding.Statement (.mulli rt ra si) :=
  row_at _ 79 _ rfl (by simp only [encode, Row.covers, encD_and_FC000000]; rfl) (by
    simp only [encode, encD_fld_6_5, encD_fld_11_5, encD_fld_16_16])

theorem RowOfEncoding.mulld (rt : BitVec 5) (ra : BitVec 5) (rb : BitVec 5) (oe : Bool) (rc : Bool) : RowOfEncoding.Statement (.mulld rt ra rb oe rc) :=
  row_at _ 80 _ rfl (by simp only [encode, Row.covers, encXO_and_FC0003FE]; rfl) (by
    simp only [encode, encXO_fld_6_5, encXO_fld_11_5, encXO_fld_16_5, encXO_bit_21, encXO_bit_31])

theorem RowOfEncoding.mullw (rt : BitVec 5) (ra : BitVec 5) (rb : BitVec 5) (oe : Bool) (rc : Bool) : RowOfEncoding.Statement (.mullw rt ra rb oe rc) :=
  row_at _ 81 _ rfl (by simp only [encode, Row.covers, encXO_and_FC0003FE]; rfl) (by
    simp only [encode, encXO_fld_6_5, encXO_fld_11_5, encXO_fld_16_5, encXO_bit_21, encXO_bit_31])

theorem RowOfEncoding.mulhd (rt : BitVec 5) (ra : BitVec 5) (rb : BitVec 5) (rc : Bool) : RowOfEncoding.Statement (.mulhd rt ra rb rc) :=
  row_at _ 82 _ rfl (by simp only [encode, Row.covers, encXO_and_FC0003FE]; rfl) (by
    simp only [encode, encXO_fld_6_5, encXO_fld_11_5, encXO_fld_16_5, encXO_bit_31])

theorem RowOfEncoding.mulhw (rt : BitVec 5) (ra : BitVec 5) (rb : BitVec 5) (rc : Bool) : RowOfEncoding.Statement (.mulhw rt ra rb rc) :=
  row_at _ 83 _ rfl (by simp only [encode, Row.covers, encXO_and_FC0003FE]; rfl) (by
    simp only [encode, encXO_fld_6_5, encXO_fld_11_5, encXO_fld_16_5, encXO_bit_31])

theorem RowOfEncoding.mulhdu (rt : BitVec 5) (ra : BitVec 5) (rb : BitVec 5) (rc : Bool) : RowOfEncoding.Statement (.mulhdu rt ra rb rc) :=
  row_at _ 84 _ rfl (by simp only [encode, Row.covers, encXO_and_FC0003FE]; rfl) (by
    simp only [encode, encXO_fld_6_5, encXO_fld_11_5, encXO_fld_16_5, encXO_bit_31])

theorem RowOfEncoding.mulhwu (rt : BitVec 5) (ra : BitVec 5) (rb : BitVec 5) (rc : Bool) : RowOfEncoding.Statement (.mulhwu rt ra rb rc) :=
  row_at _ 85 _ rfl (by simp only [encode, Row.covers, encXO_and_FC0003FE]; rfl) (by
    simp only [encode, encXO_fld_6_5, encXO_fld_11_5, encXO_fld_16_5, encXO_bit_31])

theorem RowOfEncoding.divd (rt : BitVec 5) (ra : BitVec 5) (rb : BitVec 5) (oe : Bool) (rc : Bool) : RowOfEncoding.Statement (.divd rt ra rb oe rc) :=
  row_at _ 86 _ rfl (by simp only [encode, Row.covers, encXO_and_FC0003FE]; rfl) (by
    simp only [encode, encXO_fld_6_5, encXO_fld_11_5, encXO_fld_16_5, encXO_bit_21, encXO_bit_31])

theorem RowOfEncoding.divw (rt : BitVec 5) (ra : BitVec 5) (rb : BitVec 5) (oe : Bool) (rc : Bool) : RowOfEncoding.Statement (.divw rt ra rb oe rc) :=
  row_at _ 87 _ rfl (by simp only [encode, Row.covers, encXO_and_FC0003FE]; rfl) (by
    simp only [encode, encXO_fld_6_5, encXO_fld_11_5, encXO_fld_16_5, encXO_bit_21, encXO_bit_31])

theorem RowOfEncoding.divdu (rt : BitVec 5) (ra : BitVec 5) (rb : BitVec 5) (oe : Bool) (rc : Bool) : RowOfEncoding.Statement (.divdu rt ra rb oe rc) :=
  row_at _ 88 _ rfl (by simp only [encode, Row.covers, encXO_and_FC0003FE]; rfl) (by
    simp only [encode, encXO_fld_6_5, encXO_fld_11_5, encXO_fld_16_5, encXO_bit_21, encXO_bit_31])

theorem RowOfEncoding.divwu (rt : BitVec 5) (ra : BitVec 5) (rb : BitVec 5) (oe : Bool) (rc : Bool) : RowOfEncoding.Statement (.divwu rt ra rb oe rc) :=
  row_at _ 89 _ rfl (by simp only [encode, Row.covers, encXO_and_FC0003FE]; rfl) (by
    simp only [encode, encXO_fld_6_5, encXO_fld_11_5, encXO_fld_16_5, encXO_bit_21, encXO_bit_31])

theorem RowOfEncoding.cmpi (bf : BitVec 3) (l : Bool) (ra : BitVec 5) (si : BitVec 16) : RowOfEncoding.Statement (.cmpi bf l ra si) :=
  row_at _ 90 _ rfl (by simp only [encode, Row.covers, encD_and_FC000000]; rfl) (by
    simp only [encode, encD_fld_6_3, encD_bit_10, encD_fld_11_5, encD_fld_16_16, fld_bf_l, bitAt_bf_l])

theorem RowOfEncoding.cmp (bf : BitVec 3) (l : Bool) (ra : BitVec 5) (rb : BitVec 5) : RowOfEncoding.Statement (.cmp bf l ra rb) :=
  row_at _ 91 _ rfl (by simp only [encode, Row.covers, encX_and_FC0007FE]; rfl) (by
    simp only [encode, encX_fld_6_3, encX_bit_10, encX_fld_11_5, encX_fld_16_5, fld_bf_l, bitAt_bf_l])

theorem RowOfEncoding.cmpli (bf : BitVec 3) (l : Bool) (ra : BitVec 5) (ui : BitVec 16) : RowOfEncoding.Statement (.cmpli bf l ra ui) :=
  row_at _ 92 _ rfl (by simp only [encode, Row.covers, encD_and_FC000000]; rfl) (by
    simp only [encode, encD_fld_6_3, encD_bit_10, encD_fld_11_5, encD_fld_16_16, fld_bf_l, bitAt_bf_l])

theorem RowOfEncoding.cmpl (bf : BitVec 3) (l : Bool) (ra : BitVec 5) (rb : BitVec 5) : RowOfEncoding.Statement (.cmpl bf l ra rb) :=
  row_at _ 93 _ rfl (by simp only [encode, Row.covers, encX_and_FC0007FE]; rfl) (by
    simp only [encode, encX_fld_6_3, encX_bit_10, encX_fld_11_5, encX_fld_16_5, fld_bf_l, bitAt_bf_l])

theorem RowOfEncoding.tdi (sel : BitVec 5) (ra : BitVec 5) (si : BitVec 16) : RowOfEncoding.Statement (.tdi sel ra si) :=
  row_at _ 94 _ rfl (by simp only [encode, Row.covers, encD_and_FC000000]; rfl) (by
    simp only [encode, encD_fld_6_5, encD_fld_11_5, encD_fld_16_16])

theorem RowOfEncoding.twi (sel : BitVec 5) (ra : BitVec 5) (si : BitVec 16) : RowOfEncoding.Statement (.twi sel ra si) :=
  row_at _ 95 _ rfl (by simp only [encode, Row.covers, encD_and_FC000000]; rfl) (by
    simp only [encode, encD_fld_6_5, encD_fld_11_5, encD_fld_16_16])

theorem RowOfEncoding.td (sel : BitVec 5) (ra : BitVec 5) (rb : BitVec 5) : RowOfEncoding.Statement (.td sel ra rb) :=
  row_at _ 96 _ rfl (by simp only [encode, Row.covers, encX_and_FC0007FE]; rfl) (by
    simp only [encode, encX_fld_6_5, encX_fld_11_5, encX_fld_16_5])

theorem RowOfEncoding.tw (sel : BitVec 5) (ra : BitVec 5) (rb : BitVec 5) : RowOfEncoding.Statement (.tw sel ra rb) :=
  row_at _ 97 _ rfl (by simp only [encode, Row.covers, encX_and_FC0007FE]; rfl) (by
    simp only [encode, encX_fld_6_5, encX_fld_11_5, encX_fld_16_5])

theorem RowOfEncoding.andiRc (ra : BitVec 5) (rs : BitVec 5) (ui : BitVec 16) : RowOfEncoding.Statement (.andiRc ra rs ui) :=
  row_at _ 98 _ rfl (by simp only [encode, Row.covers, encD_and_FC000000]; rfl) (by
    simp only [encode, encD_fld_11_5, encD_fld_6_5, encD_fld_16_16])

theorem RowOfEncoding.andisRc (ra : BitVec 5) (rs : BitVec 5) (ui : BitVec 16) : RowOfEncoding.Statement (.andisRc ra rs ui) :=
  row_at _ 99 _ rfl (by simp only [encode, Row.covers, encD_and_FC000000]; rfl) (by
    simp only [encode, encD_fld_11_5, encD_fld_6_5, encD_fld_16_16])

theorem RowOfEncoding.ori (ra : BitVec 5) (rs : BitVec 5) (ui : BitVec 16) : RowOfEncoding.Statement (.ori ra rs ui) :=
  row_at _ 100 _ rfl (by simp only [encode, Row.covers, encD_and_FC000000]; rfl) (by
    simp only [encode, encD_fld_11_5, encD_fld_6_5, encD_fld_16_16])

theorem RowOfEncoding.oris (ra : BitVec 5) (rs : BitVec 5) (ui : BitVec 16) : RowOfEncoding.Statement (.oris ra rs ui) :=
  row_at _ 101 _ rfl (by simp only [encode, Row.covers, encD_and_FC000000]; rfl) (by
    simp only [encode, encD_fld_11_5, encD_fld_6_5, encD_fld_16_16])

theorem RowOfEncoding.xori (ra : BitVec 5) (rs : BitVec 5) (ui : BitVec 16) : RowOfEncoding.Statement (.xori ra rs ui) :=
  row_at _ 102 _ rfl (by simp only [encode, Row.covers, encD_and_FC000000]; rfl) (by
    simp only [encode, encD_fld_11_5, encD_fld_6_5, encD_fld_16_16])

theorem RowOfEncoding.xoris (ra : BitVec 5) (rs : BitVec 5) (ui : BitVec 16) : RowOfEncoding.Statement (.xoris ra rs ui) :=
  row_at _ 103 _ rfl (by simp only [encode, Row.covers, encD_and_FC000000]; rfl) (by
    simp only [encode, encD_fld_11_5, encD_fld_6_5, encD_fld_16_16])

theorem RowOfEncoding.and (ra : BitVec 5) (rs : BitVec 5) (rb : BitVec 5) (rc : Bool) : RowOfEncoding.Statement (.and ra rs rb rc) :=
  row_at _ 104 _ rfl (by simp only [encode, Row.covers, encX_and_FC0007FE]; rfl) (by
    simp only [encode, encX_fld_11_5, encX_fld_6_5, encX_fld_16_5, encX_bit_31])

theorem RowOfEncoding.or (ra : BitVec 5) (rs : BitVec 5) (rb : BitVec 5) (rc : Bool) : RowOfEncoding.Statement (.or ra rs rb rc) :=
  row_at _ 105 _ rfl (by simp only [encode, Row.covers, encX_and_FC0007FE]; rfl) (by
    simp only [encode, encX_fld_11_5, encX_fld_6_5, encX_fld_16_5, encX_bit_31])

theorem RowOfEncoding.xor (ra : BitVec 5) (rs : BitVec 5) (rb : BitVec 5) (rc : Bool) : RowOfEncoding.Statement (.xor ra rs rb rc) :=
  row_at _ 106 _ rfl (by simp only [encode, Row.covers, encX_and_FC0007FE]; rfl) (by
    simp only [encode, encX_fld_11_5, encX_fld_6_5, encX_fld_16_5, encX_bit_31])

theorem RowOfEncoding.nand (ra : BitVec 5) (rs : BitVec 5) (rb : BitVec 5) (rc : Bool) : RowOfEncoding.Statement (.nand ra rs rb rc) :=
  row_at _ 107 _ rfl (by simp only [encode, Row.covers, encX_and_FC0007FE]; rfl) (by
    simp only [encode, encX_fld_11_5, encX_fld_6_5, encX_fld_16_5, encX_bit_31])

theorem RowOfEncoding.nor (ra : BitVec 5) (rs : BitVec 5) (rb : BitVec 5) (rc : Bool) : RowOfEncoding.Statement (.nor ra rs rb rc) :=
  row_at _ 108 _ rfl (by simp only [encode, Row.covers, encX_and_FC0007FE]; rfl) (by
    simp only [encode, encX_fld_11_5, encX_fld_6_5, encX_fld_16_5, encX_bit_31])

theorem RowOfEncoding.eqv (ra : BitVec 5) (rs : BitVec 5) (rb : BitVec 5) (rc : Bool) : RowOfEncoding.Statement (.eqv ra rs rb rc) :=
  row_at _ 109 _ rfl (by simp only [encode, Row.covers, encX_and_FC0007FE]; rfl) (by
    simp only [encode, encX_fld_11_5, encX_fld_6_5, encX_fld_16_5, encX_bit_31])

theorem RowOfEncoding.andc (ra : BitVec 5) (rs : BitVec 5) (rb : BitVec 5) (rc : Bool) : RowOfEncoding.Statement (.andc ra rs rb rc) :=
  row_at _ 110 _ rfl (by simp only [encode, Row.covers, encX_and_FC0007FE]; rfl) (by
    simp only [encode, encX_fld_11_5, encX_fld_6_5, encX_fld_16_5, encX_bit_31])

theorem RowOfEncoding.orc (ra : BitVec 5) (rs : BitVec 5) (rb : BitVec 5) (rc : Bool) : RowOfEncoding.Statement (.orc ra rs rb rc) :=
  row_at _ 111 _ rfl (by simp only [encode, Row.covers, encX_and_FC0007FE]; rfl) (by
    simp only [encode, encX_fld_11_5, encX_fld_6_5, encX_fld_16_5, encX_bit_31])

theorem RowOfEncoding.extsb (ra : BitVec 5) (rs : BitVec 5) (rc : Bool) : RowOfEncoding.Statement (.extsb ra rs rc) :=
  row_at _ 112 _ rfl (by simp only [encode, Row.covers, encX_and_FC0007FE]; rfl) (by
    simp only [encode, encX_fld_11_5, encX_fld_6_5, encX_bit_31])

theorem RowOfEncoding.extsh (ra : BitVec 5) (rs : BitVec 5) (rc : Bool) : RowOfEncoding.Statement (.extsh ra rs rc) :=
  row_at _ 113 _ rfl (by simp only [encode, Row.covers, encX_and_FC0007FE]; rfl) (by
    simp only [encode, encX_fld_11_5, encX_fld_6_5, encX_bit_31])

theorem RowOfEncoding.extsw (ra : BitVec 5) (rs : BitVec 5) (rc : Bool) : RowOfEncoding.Statement (.extsw ra rs rc) :=
  row_at _ 114 _ rfl (by simp only [encode, Row.covers, encX_and_FC0007FE]; rfl) (by
    simp only [encode, encX_fld_11_5, encX_fld_6_5, encX_bit_31])

theorem RowOfEncoding.cntlzd (ra : BitVec 5) (rs : BitVec 5) (rc : Bool) : RowOfEncoding.Statement (.cntlzd ra rs rc) :=
  row_at _ 115 _ rfl (by simp only [encode, Row.covers, encX_and_FC0007FE]; rfl) (by
    simp only [encode, encX_fld_11_5, encX_fld_6_5, encX_bit_31])

theorem RowOfEncoding.cntlzw (ra : BitVec 5) (rs : BitVec 5) (rc : Bool) : RowOfEncoding.Statement (.cntlzw ra rs rc) :=
  row_at _ 116 _ rfl (by simp only [encode, Row.covers, encX_and_FC0007FE]; rfl) (by
    simp only [encode, encX_fld_11_5, encX_fld_6_5, encX_bit_31])

theorem RowOfEncoding.rldicl (ra : BitVec 5) (rs : BitVec 5) (sh : BitVec 6) (mb : BitVec 6) (rc : Bool) : RowOfEncoding.Statement (.rldicl ra rs sh mb rc) :=
  row_at _ 117 _ rfl (by simp only [encode, Row.covers, encMD_and_FC00001C]; rfl) (by
    simp only [encode, encMD_fld_11_5, encMD_fld_6_5, encMD_fld_30_1_fld_16_5, encMD_fld_26_1_fld_21_5, encMD_bit_31])

theorem RowOfEncoding.rldicr (ra : BitVec 5) (rs : BitVec 5) (sh : BitVec 6) (me : BitVec 6) (rc : Bool) : RowOfEncoding.Statement (.rldicr ra rs sh me rc) :=
  row_at _ 118 _ rfl (by simp only [encode, Row.covers, encMD_and_FC00001C]; rfl) (by
    simp only [encode, encMD_fld_11_5, encMD_fld_6_5, encMD_fld_30_1_fld_16_5, encMD_fld_26_1_fld_21_5, encMD_bit_31])

theorem RowOfEncoding.rldic (ra : BitVec 5) (rs : BitVec 5) (sh : BitVec 6) (mb : BitVec 6) (rc : Bool) : RowOfEncoding.Statement (.rldic ra rs sh mb rc) :=
  row_at _ 119 _ rfl (by simp only [encode, Row.covers, encMD_and_FC00001C]; rfl) (by
    simp only [encode, encMD_fld_11_5, encMD_fld_6_5, encMD_fld_30_1_fld_16_5, encMD_fld_26_1_fld_21_5, encMD_bit_31])

theorem RowOfEncoding.rlwinm (ra : BitVec 5) (rs : BitVec 5) (sh : BitVec 5) (mb : BitVec 5) (me : BitVec 5) (rc : Bool) : RowOfEncoding.Statement (.rlwinm ra rs sh mb me rc) :=
  row_at _ 120 _ rfl (by simp only [encode, Row.covers, encM_and_FC000000]; rfl) (by
    simp only [encode, encM_fld_11_5, encM_fld_6_5, encM_fld_16_5, encM_fld_21_5, encM_fld_26_5, encM_bit_31])

theorem RowOfEncoding.rldcl (ra : BitVec 5) (rs : BitVec 5) (rb : BitVec 5) (mb : BitVec 6) (rc : Bool) : RowOfEncoding.Statement (.rldcl ra rs rb mb rc) :=
  row_at _ 121 _ rfl (by simp only [encode, Row.covers, encMDS_and_FC00001E]; rfl) (by
    simp only [encode, encMDS_fld_11_5, encMDS_fld_6_5, encMDS_fld_16_5, encMDS_fld_26_1_fld_21_5, encMDS_bit_31])

theorem RowOfEncoding.rldcr (ra : BitVec 5) (rs : BitVec 5) (rb : BitVec 5) (me : BitVec 6) (rc : Bool) : RowOfEncoding.Statement (.rldcr ra rs rb me rc) :=
  row_at _ 122 _ rfl (by simp only [encode, Row.covers, encMDS_and_FC00001E]; rfl) (by
    simp only [encode, encMDS_fld_11_5, encMDS_fld_6_5, encMDS_fld_16_5, encMDS_fld_26_1_fld_21_5, encMDS_bit_31])

theorem RowOfEncoding.rlwnm (ra : BitVec 5) (rs : BitVec 5) (rb : BitVec 5) (mb : BitVec 5) (me : BitVec 5) (rc : Bool) : RowOfEncoding.Statement (.rlwnm ra rs rb mb me rc) :=
  row_at _ 123 _ rfl (by simp only [encode, Row.covers, encM_and_FC000000]; rfl) (by
    simp only [encode, encM_fld_11_5, encM_fld_6_5, encM_fld_16_5, encM_fld_21_5, encM_fld_26_5, encM_bit_31])

theorem RowOfEncoding.rldimi (ra : BitVec 5) (rs : BitVec 5) (sh : BitVec 6) (mb : BitVec 6) (rc : Bool) : RowOfEncoding.Statement (.rldimi ra rs sh mb rc) :=
  row_at _ 124 _ rfl (by simp only [encode, Row.covers, encMD_and_FC00001C]; rfl) (by
    simp only [encode, encMD_fld_11_5, encMD_fld_6_5, encMD_fld_30_1_fld_16_5, encMD_fld_26_1_fld_21_5, encMD_bit_31])

theorem RowOfEncoding.rlwimi (ra : BitVec 5) (rs : BitVec 5) (sh : BitVec 5) (mb : BitVec 5) (me : BitVec 5) (rc : Bool) : RowOfEncoding.Statement (.rlwimi ra rs sh mb me rc) :=
  row_at _ 125 _ rfl (by simp only [encode, Row.covers, encM_and_FC000000]; rfl) (by
    simp only [encode, encM_fld_11_5, encM_fld_6_5, encM_fld_16_5, encM_fld_21_5, encM_fld_26_5, encM_bit_31])

theorem RowOfEncoding.sld (ra : BitVec 5) (rs : BitVec 5) (rb : BitVec 5) (rc : Bool) : RowOfEncoding.Statement (.sld ra rs rb rc) :=
  row_at _ 126 _ rfl (by simp only [encode, Row.covers, encX_and_FC0007FE]; rfl) (by
    simp only [encode, encX_fld_11_5, encX_fld_6_5, encX_fld_16_5, encX_bit_31])

theorem RowOfEncoding.slw (ra : BitVec 5) (rs : BitVec 5) (rb : BitVec 5) (rc : Bool) : RowOfEncoding.Statement (.slw ra rs rb rc) :=
  row_at _ 127 _ rfl (by simp only [encode, Row.covers, encX_and_FC0007FE]; rfl) (by
    simp only [encode, encX_fld_11_5, encX_fld_6_5, encX_fld_16_5, encX_bit_31])

theorem RowOfEncoding.srd (ra : BitVec 5) (rs : BitVec 5) (rb : BitVec 5) (rc : Bool) : RowOfEncoding.Statement (.srd ra rs rb rc) :=
  row_at _ 128 _ rfl (by simp only [encode, Row.covers, encX_and_FC0007FE]; rfl) (by
    simp only [encode, encX_fld_11_5, encX_fld_6_5, encX_fld_16_5, encX_bit_31])

theorem RowOfEncoding.srw (ra : BitVec 5) (rs : BitVec 5) (rb : BitVec 5) (rc : Bool) : RowOfEncoding.Statement (.srw ra rs rb rc) :=
  row_at _ 129 _ rfl (by simp only [encode, Row.covers, encX_and_FC0007FE]; rfl) (by
    simp only [encode, encX_fld_11_5, encX_fld_6_5, encX_fld_16_5, encX_bit_31])

theorem RowOfEncoding.sradi (ra : BitVec 5) (rs : BitVec 5) (sh : BitVec 6) (rc : Bool) : RowOfEncoding.Statement (.sradi ra rs sh rc) :=
  row_at _ 130 _ rfl (by simp only [encode, Row.covers, encXS_and_FC0007FC]; rfl) (by
    simp only [encode, encXS_fld_11_5, encXS_fld_6_5, encXS_fld_30_1_fld_16_5, encXS_bit_31])

theorem RowOfEncoding.srawi (ra : BitVec 5) (rs : BitVec 5) (sh : BitVec 5) (rc : Bool) : RowOfEncoding.Statement (.srawi ra rs sh rc) :=
  row_at _ 131 _ rfl (by simp only [encode, Row.covers, encX_and_FC0007FE]; rfl) (by
    simp only [encode, encX_fld_11_5, encX_fld_6_5, encX_fld_16_5, encX_bit_31])

theorem RowOfEncoding.srad (ra : BitVec 5) (rs : BitVec 5) (rb : BitVec 5) (rc : Bool) : RowOfEncoding.Statement (.srad ra rs rb rc) :=
  row_at _ 132 _ rfl (by simp only [encode, Row.covers, encX_and_FC0007FE]; rfl) (by
    simp only [encode, encX_fld_11_5, encX_fld_6_5, encX_fld_16_5, encX_bit_31])

theorem RowOfEncoding.sraw (ra : BitVec 5) (rs : BitVec 5) (rb : BitVec 5) (rc : Bool) : RowOfEncoding.Statement (.sraw ra rs rb rc) :=
  row_at _ 133 _ rfl (by simp only [encode, Row.covers, encX_and_FC0007FE]; rfl) (by
    simp only [encode, encX_fld_11_5, encX_fld_6_5, encX_fld_16_5, encX_bit_31])

theorem RowOfEncoding.mtspr (spr : BitVec 10) (rs : BitVec 5) : RowOfEncoding.Statement (.mtspr spr rs) :=
  row_at _ 134 _ rfl (by simp only [encode, Row.covers, encX_and_FC0007FE]; rfl) (by
    simp only [encode, encX_fld_16_5, encX_fld_11_5, encX_fld_6_5, hi5_append_lo5])

theorem RowOfEncoding.mfspr (rt : BitVec 5) (spr : BitVec 10) : RowOfEncoding.Statement (.mfspr rt spr) :=
  row_at _ 135 _ rfl (by simp only [encode, Row.covers, encX_and_FC0007FE]; rfl) (by
    simp only [encode, encX_fld_6_5, encX_fld_16_5, encX_fld_11_5, hi5_append_lo5])

theorem RowOfEncoding.mtcrf (fxm : BitVec 8) (rs : BitVec 5) : RowOfEncoding.Statement (.mtcrf fxm rs) :=
  row_at _ 136 _ rfl (by simp only [encode, Row.covers, encXFX_and_FC1007FE]; rfl) (by
    simp only [encode, encXFX_fld_12_8, encXFX_fld_6_5])

theorem RowOfEncoding.mfcr (rt : BitVec 5) : RowOfEncoding.Statement (.mfcr rt) :=
  row_at _ 137 _ rfl (by simp only [encode, Row.covers, encXFX_and_FC1007FE]; rfl) (by
    simp only [encode, encXFX_fld_6_5])

theorem RowOfEncoding.mtocrf (fxm : BitVec 8) (rs : BitVec 5) : RowOfEncoding.Statement (.mtocrf fxm rs) :=
  row_at _ 138 _ rfl (by simp only [encode, Row.covers, encXFX_and_FC1007FE]; rfl) (by
    simp only [encode, encXFX_fld_12_8, encXFX_fld_6_5])

theorem RowOfEncoding.mfocrf (rt : BitVec 5) (fxm : BitVec 8) : RowOfEncoding.Statement (.mfocrf rt fxm) :=
  row_at _ 139 _ rfl (by simp only [encode, Row.covers, encXFX_and_FC1007FE]; rfl) (by
    simp only [encode, encXFX_fld_6_5, encXFX_fld_12_8])

theorem RowOfEncoding.mcrxr (bf : BitVec 3) : RowOfEncoding.Statement (.mcrxr bf) :=
  row_at _ 140 _ rfl (by simp only [encode, Row.covers, encX_and_FC0007FE]; rfl) (by
    simp only [encode, encX_fld_6_3, fld_bf_fill])

theorem RowOfEncoding.lfs (frt : BitVec 5) (d : BitVec 16) (ra : BitVec 5) : RowOfEncoding.Statement (.lfs frt d ra) :=
  row_at _ 141 _ rfl (by simp only [encode, Row.covers, encD_and_FC000000]; rfl) (by
    simp only [encode, encD_fld_6_5, encD_fld_16_16, encD_fld_11_5])

theorem RowOfEncoding.lfsx (frt : BitVec 5) (ra : BitVec 5) (rb : BitVec 5) : RowOfEncoding.Statement (.lfsx frt ra rb) :=
  row_at _ 142 _ rfl (by simp only [encode, Row.covers, encX_and_FC0007FE]; rfl) (by
    simp only [encode, encX_fld_6_5, encX_fld_11_5, encX_fld_16_5])

theorem RowOfEncoding.lfsu (frt : BitVec 5) (d : BitVec 16) (ra : BitVec 5) : RowOfEncoding.Statement (.lfsu frt d ra) :=
  row_at _ 143 _ rfl (by simp only [encode, Row.covers, encD_and_FC000000]; rfl) (by
    simp only [encode, encD_fld_6_5, encD_fld_16_16, encD_fld_11_5])

theorem RowOfEncoding.lfsux (frt : BitVec 5) (ra : BitVec 5) (rb : BitVec 5) : RowOfEncoding.Statement (.lfsux frt ra rb) :=
  row_at _ 144 _ rfl (by simp only [encode, Row.covers, encX_and_FC0007FE]; rfl) (by
    simp only [encode, encX_fld_6_5, encX_fld_11_5, encX_fld_16_5])

theorem RowOfEncoding.lfd (frt : BitVec 5) (d : BitVec 16) (ra : BitVec 5) : RowOfEncoding.Statement (.lfd frt d ra) :=
  row_at _ 145 _ rfl (by simp only [encode, Row.covers, encD_and_FC000000]; rfl) (by
    simp only [encode, encD_fld_6_5, encD_fld_16_16, encD_fld_11_5])

theorem RowOfEncoding.lfdx (frt : BitVec 5) (ra : BitVec 5) (rb : BitVec 5) : RowOfEncoding.Statement (.lfdx frt ra rb) :=
  row_at _ 146 _ rfl (by simp only [encode, Row.covers, encX_and_FC0007FE]; rfl) (by
    simp only [encode, encX_fld_6_5, encX_fld_11_5, encX_fld_16_5])

theorem RowOfEncoding.lfdu (frt : BitVec 5) (d : BitVec 16) (ra : BitVec 5) : RowOfEncoding.Statement (.lfdu frt d ra) :=
  row_at _ 147 _ rfl (by simp only [encode, Row.covers, encD_and_FC000000]; rfl) (by
    simp only [encode, encD_fld_6_5, encD_fld_16_16, encD_fld_11_5])

theorem RowOfEncoding.lfdux (frt : BitVec 5) (ra : BitVec 5) (rb : BitVec 5) : RowOfEncoding.Statement (.lfdux frt ra rb) :=
  row_at _ 148 _ rfl (by simp only [encode, Row.covers, encX_and_FC0007FE]; rfl) (by
    simp only [encode, encX_fld_6_5, encX_fld_11_5, encX_fld_16_5])

theorem RowOfEncoding.stfs (frs : BitVec 5) (d : BitVec 16) (ra : BitVec 5) : RowOfEncoding.Statement (.stfs frs d ra) :=
  row_at _ 149 _ rfl (by simp only [encode, Row.covers, encD_and_FC000000]; rfl) (by
    simp only [encode, encD_fld_6_5, encD_fld_16_16, encD_fld_11_5])

theorem RowOfEncoding.stfsx (frs : BitVec 5) (ra : BitVec 5) (rb : BitVec 5) : RowOfEncoding.Statement (.stfsx frs ra rb) :=
  row_at _ 150 _ rfl (by simp only [encode, Row.covers, encX_and_FC0007FE]; rfl) (by
    simp only [encode, encX_fld_6_5, encX_fld_11_5, encX_fld_16_5])

theorem RowOfEncoding.stfsu (frs : BitVec 5) (d : BitVec 16) (ra : BitVec 5) : RowOfEncoding.Statement (.stfsu frs d ra) :=
  row_at _ 151 _ rfl (by simp only [encode, Row.covers, encD_and_FC000000]; rfl) (by
    simp only [encode, encD_fld_6_5, encD_fld_16_16, encD_fld_11_5])

theorem RowOfEncoding.stfsux (frs : BitVec 5) (ra : BitVec 5) (rb : BitVec 5) : RowOfEncoding.Statement (.stfsux frs ra rb) :=
  row_at _ 152 _ rfl (by simp only [encode, Row.covers, encX_and_FC0007FE]; rfl) (by
    simp only [encode, encX_fld_6_5, encX_fld_11_5, encX_fld_16_5])

theorem RowOfEncoding.stfd (frs : BitVec 5) (d : BitVec 16) (ra : BitVec 5) : RowOfEncoding.Statement (.stfd frs d ra) :=
  row_at _ 153 _ rfl (by simp only [encode, Row.covers, encD_and_FC000000]; rfl) (by
    simp only [encode, encD_fld_6_5, encD_fld_16_16, encD_fld_11_5])

theorem RowOfEncoding.stfdx (frs : BitVec 5) (ra : BitVec 5) (rb : BitVec 5) : RowOfEncoding.Statement (.stfdx frs ra rb) :=
  row_at _ 154 _ rfl (by simp only [encode, Row.covers, encX_and_FC0007FE]; rfl) (by
    simp only [encode, encX_fld_6_5, encX_fld_11_5, encX_fld_16_5])

theorem RowOfEncoding.stfdu (frs : BitVec 5) (d : BitVec 16) (ra : BitVec 5) : RowOfEncoding.Statement (.stfdu frs d ra) :=
  row_at _ 155 _ rfl (by simp only [encode, Row.covers, encD_and_FC000000]; rfl) (by
    simp only [encode, encD_fld_6_5, encD_fld_16_16, encD_fld_11_5])

theorem RowOfEncoding.stfdux (frs : BitVec 5) (ra : BitVec 5) (rb : BitVec 5) : RowOfEncoding.Statement (.stfdux frs ra rb) :=
  row_at _ 156 _ rfl (by simp only [encode, Row.covers, encX_and_FC0007FE]; rfl) (by
    simp only [encode, encX_fld_6_5, encX_fld_11_5, encX_fld_16_5])

theorem RowOfEncoding.stfiwx (frs : BitVec 5) (ra : BitVec 5) (rb : BitVec 5) : RowOfEncoding.Statement (.stfiwx frs ra rb) :=
  row_at _ 157 _ rfl (by simp only [encode, Row.covers, encX_and_FC0007FE]; rfl) (by
    simp only [encode, encX_fld_6_5, encX_fld_11_5, encX_fld_16_5])

theorem RowOfEncoding.fmr (frt : BitVec 5) (frb : BitVec 5) (rc : Bool) : RowOfEncoding.Statement (.fmr frt frb rc) :=
  row_at _ 158 _ rfl (by simp only [encode, Row.covers, encX_and_FC0007FE]; rfl) (by
    simp only [encode, encX_fld_6_5, encX_fld_16_5, encX_bit_31])

theorem RowOfEncoding.fneg (frt : BitVec 5) (frb : BitVec 5) (rc : Bool) : RowOfEncoding.Statement (.fneg frt frb rc) :=
  row_at _ 159 _ rfl (by simp only [encode, Row.covers, encX_and_FC0007FE]; rfl) (by
    simp only [encode, encX_fld_6_5, encX_fld_16_5, encX_bit_31])

theorem RowOfEncoding.fabs (frt : BitVec 5) (frb : BitVec 5) (rc : Bool) : RowOfEncoding.Statement (.fabs frt frb rc) :=
  row_at _ 160 _ rfl (by simp only [encode, Row.covers, encX_and_FC0007FE]; rfl) (by
    simp only [encode, encX_fld_6_5, encX_fld_16_5, encX_bit_31])

theorem RowOfEncoding.fnabs (frt : BitVec 5) (frb : BitVec 5) (rc : Bool) : RowOfEncoding.Statement (.fnabs frt frb rc) :=
  row_at _ 161 _ rfl (by simp only [encode, Row.covers, encX_and_FC0007FE]; rfl) (by
    simp only [encode, encX_fld_6_5, encX_fld_16_5, encX_bit_31])

theorem RowOfEncoding.fadd (frt : BitVec 5) (fra : BitVec 5) (frb : BitVec 5) (rc : Bool) : RowOfEncoding.Statement (.fadd frt fra frb rc) :=
  row_at _ 162 _ rfl (by simp only [encode, Row.covers, encA_and_FC00003E]; rfl) (by
    simp only [encode, encA_fld_6_5, encA_fld_11_5, encA_fld_16_5, encA_bit_31])

theorem RowOfEncoding.fadds (frt : BitVec 5) (fra : BitVec 5) (frb : BitVec 5) (rc : Bool) : RowOfEncoding.Statement (.fadds frt fra frb rc) :=
  row_at _ 163 _ rfl (by simp only [encode, Row.covers, encA_and_FC00003E]; rfl) (by
    simp only [encode, encA_fld_6_5, encA_fld_11_5, encA_fld_16_5, encA_bit_31])

theorem RowOfEncoding.fsub (frt : BitVec 5) (fra : BitVec 5) (frb : BitVec 5) (rc : Bool) : RowOfEncoding.Statement (.fsub frt fra frb rc) :=
  row_at _ 164 _ rfl (by simp only [encode, Row.covers, encA_and_FC00003E]; rfl) (by
    simp only [encode, encA_fld_6_5, encA_fld_11_5, encA_fld_16_5, encA_bit_31])

theorem RowOfEncoding.fsubs (frt : BitVec 5) (fra : BitVec 5) (frb : BitVec 5) (rc : Bool) : RowOfEncoding.Statement (.fsubs frt fra frb rc) :=
  row_at _ 165 _ rfl (by simp only [encode, Row.covers, encA_and_FC00003E]; rfl) (by
    simp only [encode, encA_fld_6_5, encA_fld_11_5, encA_fld_16_5, encA_bit_31])

theorem RowOfEncoding.fmul (frt : BitVec 5) (fra : BitVec 5) (frc : BitVec 5) (rc : Bool) : RowOfEncoding.Statement (.fmul frt fra frc rc) :=
  row_at _ 166 _ rfl (by simp only [encode, Row.covers, encA_and_FC00003E]; rfl) (by
    simp only [encode, encA_fld_6_5, encA_fld_11_5, encA_fld_21_5, encA_bit_31])

theorem RowOfEncoding.fmuls (frt : BitVec 5) (fra : BitVec 5) (frc : BitVec 5) (rc : Bool) : RowOfEncoding.Statement (.fmuls frt fra frc rc) :=
  row_at _ 167 _ rfl (by simp only [encode, Row.covers, encA_and_FC00003E]; rfl) (by
    simp only [encode, encA_fld_6_5, encA_fld_11_5, encA_fld_21_5, encA_bit_31])

theorem RowOfEncoding.fdiv (frt : BitVec 5) (fra : BitVec 5) (frb : BitVec 5) (rc : Bool) : RowOfEncoding.Statement (.fdiv frt fra frb rc) :=
  row_at _ 168 _ rfl (by simp only [encode, Row.covers, encA_and_FC00003E]; rfl) (by
    simp only [encode, encA_fld_6_5, encA_fld_11_5, encA_fld_16_5, encA_bit_31])

theorem RowOfEncoding.fdivs (frt : BitVec 5) (fra : BitVec 5) (frb : BitVec 5) (rc : Bool) : RowOfEncoding.Statement (.fdivs frt fra frb rc) :=
  row_at _ 169 _ rfl (by simp only [encode, Row.covers, encA_and_FC00003E]; rfl) (by
    simp only [encode, encA_fld_6_5, encA_fld_11_5, encA_fld_16_5, encA_bit_31])

theorem RowOfEncoding.fmadd (frt : BitVec 5) (fra : BitVec 5) (frc : BitVec 5) (frb : BitVec 5) (rc : Bool) : RowOfEncoding.Statement (.fmadd frt fra frc frb rc) :=
  row_at _ 170 _ rfl (by simp only [encode, Row.covers, encA_and_FC00003E]; rfl) (by
    simp only [encode, encA_fld_6_5, encA_fld_11_5, encA_fld_21_5, encA_fld_16_5, encA_bit_31])

theorem RowOfEncoding.fmadds (frt : BitVec 5) (fra : BitVec 5) (frc : BitVec 5) (frb : BitVec 5) (rc : Bool) : RowOfEncoding.Statement (.fmadds frt fra frc frb rc) :=
  row_at _ 171 _ rfl (by simp only [encode, Row.covers, encA_and_FC00003E]; rfl) (by
    simp only [encode, encA_fld_6_5, encA_fld_11_5, encA_fld_21_5, encA_fld_16_5, encA_bit_31])

theorem RowOfEncoding.fmsub (frt : BitVec 5) (fra : BitVec 5) (frc : BitVec 5) (frb : BitVec 5) (rc : Bool) : RowOfEncoding.Statement (.fmsub frt fra frc frb rc) :=
  row_at _ 172 _ rfl (by simp only [encode, Row.covers, encA_and_FC00003E]; rfl) (by
    simp only [encode, encA_fld_6_5, encA_fld_11_5, encA_fld_21_5, encA_fld_16_5, encA_bit_31])

theorem RowOfEncoding.fmsubs (frt : BitVec 5) (fra : BitVec 5) (frc : BitVec 5) (frb : BitVec 5) (rc : Bool) : RowOfEncoding.Statement (.fmsubs frt fra frc frb rc) :=
  row_at _ 173 _ rfl (by simp only [encode, Row.covers, encA_and_FC00003E]; rfl) (by
    simp only [encode, encA_fld_6_5, encA_fld_11_5, encA_fld_21_5, encA_fld_16_5, encA_bit_31])

theorem RowOfEncoding.fnmadd (frt : BitVec 5) (fra : BitVec 5) (frc : BitVec 5) (frb : BitVec 5) (rc : Bool) : RowOfEncoding.Statement (.fnmadd frt fra frc frb rc) :=
  row_at _ 174 _ rfl (by simp only [encode, Row.covers, encA_and_FC00003E]; rfl) (by
    simp only [encode, encA_fld_6_5, encA_fld_11_5, encA_fld_21_5, encA_fld_16_5, encA_bit_31])

theorem RowOfEncoding.fnmadds (frt : BitVec 5) (fra : BitVec 5) (frc : BitVec 5) (frb : BitVec 5) (rc : Bool) : RowOfEncoding.Statement (.fnmadds frt fra frc frb rc) :=
  row_at _ 175 _ rfl (by simp only [encode, Row.covers, encA_and_FC00003E]; rfl) (by
    simp only [encode, encA_fld_6_5, encA_fld_11_5, encA_fld_21_5, encA_fld_16_5, encA_bit_31])

theorem RowOfEncoding.fnmsub (frt : BitVec 5) (fra : BitVec 5) (frc : BitVec 5) (frb : BitVec 5) (rc : Bool) : RowOfEncoding.Statement (.fnmsub frt fra frc frb rc) :=
  row_at _ 176 _ rfl (by simp only [encode, Row.covers, encA_and_FC00003E]; rfl) (by
    simp only [encode, encA_fld_6_5, encA_fld_11_5, encA_fld_21_5, encA_fld_16_5, encA_bit_31])

theorem RowOfEncoding.fnmsubs (frt : BitVec 5) (fra : BitVec 5) (frc : BitVec 5) (frb : BitVec 5) (rc : Bool) : RowOfEncoding.Statement (.fnmsubs frt fra frc frb rc) :=
  row_at _ 177 _ rfl (by simp only [encode, Row.covers, encA_and_FC00003E]; rfl) (by
    simp only [encode, encA_fld_6_5, encA_fld_11_5, encA_fld_21_5, encA_fld_16_5, encA_bit_31])

theorem RowOfEncoding.frsp (frt : BitVec 5) (frb : BitVec 5) (rc : Bool) : RowOfEncoding.Statement (.frsp frt frb rc) :=
  row_at _ 178 _ rfl (by simp only [encode, Row.covers, encX_and_FC0007FE]; rfl) (by
    simp only [encode, encX_fld_6_5, encX_fld_16_5, encX_bit_31])

theorem RowOfEncoding.fctid (frt : BitVec 5) (frb : BitVec 5) (rc : Bool) : RowOfEncoding.Statement (.fctid frt frb rc) :=
  row_at _ 179 _ rfl (by simp only [encode, Row.covers, encX_and_FC0007FE]; rfl) (by
    simp only [encode, encX_fld_6_5, encX_fld_16_5, encX_bit_31])

theorem RowOfEncoding.fctidz (frt : BitVec 5) (frb : BitVec 5) (rc : Bool) : RowOfEncoding.Statement (.fctidz frt frb rc) :=
  row_at _ 180 _ rfl (by simp only [encode, Row.covers, encX_and_FC0007FE]; rfl) (by
    simp only [encode, encX_fld_6_5, encX_fld_16_5, encX_bit_31])

theorem RowOfEncoding.fctiw (frt : BitVec 5) (frb : BitVec 5) (rc : Bool) : RowOfEncoding.Statement (.fctiw frt frb rc) :=
  row_at _ 181 _ rfl (by simp only [encode, Row.covers, encX_and_FC0007FE]; rfl) (by
    simp only [encode, encX_fld_6_5, encX_fld_16_5, encX_bit_31])

theorem RowOfEncoding.fctiwz (frt : BitVec 5) (frb : BitVec 5) (rc : Bool) : RowOfEncoding.Statement (.fctiwz frt frb rc) :=
  row_at _ 182 _ rfl (by simp only [encode, Row.covers, encX_and_FC0007FE]; rfl) (by
    simp only [encode, encX_fld_6_5, encX_fld_16_5, encX_bit_31])

theorem RowOfEncoding.fcfid (frt : BitVec 5) (frb : BitVec 5) (rc : Bool) : RowOfEncoding.Statement (.fcfid frt frb rc) :=
  row_at _ 183 _ rfl (by simp only [encode, Row.covers, encX_and_FC0007FE]; rfl) (by
    simp only [encode, encX_fld_6_5, encX_fld_16_5, encX_bit_31])

theorem RowOfEncoding.fcmpu (bf : BitVec 3) (fra : BitVec 5) (frb : BitVec 5) : RowOfEncoding.Statement (.fcmpu bf fra frb) :=
  row_at _ 184 _ rfl (by simp only [encode, Row.covers, encX_and_FC0007FE]; rfl) (by
    simp only [encode, encX_fld_6_3, encX_fld_11_5, encX_fld_16_5, fld_bf_fill])

theorem RowOfEncoding.fcmpo (bf : BitVec 3) (fra : BitVec 5) (frb : BitVec 5) : RowOfEncoding.Statement (.fcmpo bf fra frb) :=
  row_at _ 185 _ rfl (by simp only [encode, Row.covers, encX_and_FC0007FE]; rfl) (by
    simp only [encode, encX_fld_6_3, encX_fld_11_5, encX_fld_16_5, fld_bf_fill])

theorem RowOfEncoding.mffs (frt : BitVec 5) (rc : Bool) : RowOfEncoding.Statement (.mffs frt rc) :=
  row_at _ 186 _ rfl (by simp only [encode, Row.covers, encX_and_FC0007FE]; rfl) (by
    simp only [encode, encX_fld_6_5, encX_bit_31])

theorem RowOfEncoding.mcrfs (bf : BitVec 3) (bfa : BitVec 3) : RowOfEncoding.Statement (.mcrfs bf bfa) :=
  row_at _ 187 _ rfl (by simp only [encode, Row.covers, encX_and_FC0007FE]; rfl) (by
    simp only [encode, encX_fld_6_3, encX_fld_11_3, fld_bf_fill])

theorem RowOfEncoding.mtfsfi (bf : BitVec 3) (u : BitVec 4) (rc : Bool) : RowOfEncoding.Statement (.mtfsfi bf u rc) :=
  row_at _ 188 _ rfl (by simp only [encode, Row.covers, encX_and_FC0007FE]; rfl) (by
    simp only [encode, encX_fld_6_3, encX_fld_16_4, encX_bit_31, fld_bf_fill, fld_u_fill])

theorem RowOfEncoding.mtfsf (flm : BitVec 8) (frb : BitVec 5) (rc : Bool) : RowOfEncoding.Statement (.mtfsf flm frb rc) :=
  row_at _ 189 _ rfl (by simp only [encode, Row.covers, encXFL_and_FC0007FE]; rfl) (by
    simp only [encode, encXFL_fld_7_8, encXFL_fld_16_5, encXFL_bit_31])

theorem RowOfEncoding.mtfsb0 (bt : BitVec 5) (rc : Bool) : RowOfEncoding.Statement (.mtfsb0 bt rc) :=
  row_at _ 190 _ rfl (by simp only [encode, Row.covers, encX_and_FC0007FE]; rfl) (by
    simp only [encode, encX_fld_6_5, encX_bit_31])

theorem RowOfEncoding.mtfsb1 (bt : BitVec 5) (rc : Bool) : RowOfEncoding.Statement (.mtfsb1 bt rc) :=
  row_at _ 191 _ rfl (by simp only [encode, Row.covers, encX_and_FC0007FE]; rfl) (by
    simp only [encode, encX_fld_6_5, encX_bit_31])

theorem RowOfEncoding.fsqrt (frt : BitVec 5) (frb : BitVec 5) (rc : Bool) : RowOfEncoding.Statement (.fsqrt frt frb rc) :=
  row_at _ 192 _ rfl (by simp only [encode, Row.covers, encA_and_FC00003E]; rfl) (by
    simp only [encode, encA_fld_6_5, encA_fld_16_5, encA_bit_31])

theorem RowOfEncoding.fsqrts (frt : BitVec 5) (frb : BitVec 5) (rc : Bool) : RowOfEncoding.Statement (.fsqrts frt frb rc) :=
  row_at _ 193 _ rfl (by simp only [encode, Row.covers, encA_and_FC00003E]; rfl) (by
    simp only [encode, encA_fld_6_5, encA_fld_16_5, encA_bit_31])

theorem RowOfEncoding.fres (frt : BitVec 5) (frb : BitVec 5) (rc : Bool) : RowOfEncoding.Statement (.fres frt frb rc) :=
  row_at _ 194 _ rfl (by simp only [encode, Row.covers, encA_and_FC00003E]; rfl) (by
    simp only [encode, encA_fld_6_5, encA_fld_16_5, encA_bit_31])

theorem RowOfEncoding.frsqrte (frt : BitVec 5) (frb : BitVec 5) (rc : Bool) : RowOfEncoding.Statement (.frsqrte frt frb rc) :=
  row_at _ 195 _ rfl (by simp only [encode, Row.covers, encA_and_FC00003E]; rfl) (by
    simp only [encode, encA_fld_6_5, encA_fld_16_5, encA_bit_31])

theorem RowOfEncoding.fsel (frt : BitVec 5) (fra : BitVec 5) (frc : BitVec 5) (frb : BitVec 5) (rc : Bool) : RowOfEncoding.Statement (.fsel frt fra frc frb rc) :=
  row_at _ 196 _ rfl (by simp only [encode, Row.covers, encA_and_FC00003E]; rfl) (by
    simp only [encode, encA_fld_6_5, encA_fld_11_5, encA_fld_21_5, encA_fld_16_5, encA_bit_31])

theorem RowOfEncoding.rfid : RowOfEncoding.Statement .rfid :=
  row_at _ 197 _ rfl (by simp only [encode, Row.covers, encX_and_FC0007FE]; rfl) rfl

theorem RowOfEncoding.isync : RowOfEncoding.Statement .isync :=
  row_at _ 198 _ rfl (by simp only [encode, Row.covers, encX_and_FC0007FE]; rfl) rfl

theorem RowOfEncoding.lwarx : RowOfEncoding.Statement .lwarx :=
  row_at _ 199 _ rfl (by simp only [encode, Row.covers, encX_and_FC0007FE]; rfl) rfl

theorem RowOfEncoding.dcbst : RowOfEncoding.Statement .dcbst :=
  row_at _ 200 _ rfl (by simp only [encode, Row.covers, encX_and_FC0007FE]; rfl) rfl

theorem RowOfEncoding.mfmsr : RowOfEncoding.Statement .mfmsr :=
  row_at _ 201 _ rfl (by simp only [encode, Row.covers, encX_and_FC0007FE]; rfl) rfl

theorem RowOfEncoding.ldarx : RowOfEncoding.Statement .ldarx :=
  row_at _ 202 _ rfl (by simp only [encode, Row.covers, encX_and_FC0007FE]; rfl) rfl

theorem RowOfEncoding.dcbf : RowOfEncoding.Statement .dcbf :=
  row_at _ 203 _ rfl (by simp only [encode, Row.covers, encX_and_FC0007FE]; rfl) rfl

theorem RowOfEncoding.mtmsr : RowOfEncoding.Statement .mtmsr :=
  row_at _ 204 _ rfl (by simp only [encode, Row.covers, encX_and_FC0007FE]; rfl) rfl

theorem RowOfEncoding.stwcxRc : RowOfEncoding.Statement .stwcxRc :=
  row_at _ 205 _ rfl (by simp only [encode, Row.covers, encX_and_FC0007FF]; rfl) rfl

theorem RowOfEncoding.mtmsrd : RowOfEncoding.Statement .mtmsrd :=
  row_at _ 206 _ rfl (by simp only [encode, Row.covers, encX_and_FC0007FE]; rfl) rfl

theorem RowOfEncoding.mtsr : RowOfEncoding.Statement .mtsr :=
  row_at _ 207 _ rfl (by simp only [encode, Row.covers, encX_and_FC0007FE]; rfl) rfl

theorem RowOfEncoding.stdcxRc : RowOfEncoding.Statement .stdcxRc :=
  row_at _ 208 _ rfl (by simp only [encode, Row.covers, encX_and_FC0007FF]; rfl) rfl

theorem RowOfEncoding.mtsrin : RowOfEncoding.Statement .mtsrin :=
  row_at _ 209 _ rfl (by simp only [encode, Row.covers, encX_and_FC0007FE]; rfl) rfl

theorem RowOfEncoding.dcbtst : RowOfEncoding.Statement .dcbtst :=
  row_at _ 210 _ rfl (by simp only [encode, Row.covers, encX_and_FC0007FE]; rfl) rfl

theorem RowOfEncoding.dcbt : RowOfEncoding.Statement .dcbt :=
  row_at _ 211 _ rfl (by simp only [encode, Row.covers, encX_and_FC0007FE]; rfl) rfl

theorem RowOfEncoding.tlbie : RowOfEncoding.Statement .tlbie :=
  row_at _ 212 _ rfl (by simp only [encode, Row.covers, encX_and_FC0007FE]; rfl) rfl

theorem RowOfEncoding.eciwx : RowOfEncoding.Statement .eciwx :=
  row_at _ 213 _ rfl (by simp only [encode, Row.covers, encX_and_FC0007FE]; rfl) rfl

theorem RowOfEncoding.tlbia : RowOfEncoding.Statement .tlbia :=
  row_at _ 214 _ rfl (by simp only [encode, Row.covers, encX_and_FC0007FE]; rfl) rfl

theorem RowOfEncoding.mftb : RowOfEncoding.Statement .mftb :=
  row_at _ 215 _ rfl (by simp only [encode, Row.covers, encX_and_FC0007FE]; rfl) rfl

theorem RowOfEncoding.slbmte : RowOfEncoding.Statement .slbmte :=
  row_at _ 216 _ rfl (by simp only [encode, Row.covers, encX_and_FC0007FE]; rfl) rfl

theorem RowOfEncoding.slbie : RowOfEncoding.Statement .slbie :=
  row_at _ 217 _ rfl (by simp only [encode, Row.covers, encX_and_FC0007FE]; rfl) rfl

theorem RowOfEncoding.ecowx : RowOfEncoding.Statement .ecowx :=
  row_at _ 218 _ rfl (by simp only [encode, Row.covers, encX_and_FC0007FE]; rfl) rfl

theorem RowOfEncoding.slbia : RowOfEncoding.Statement .slbia :=
  row_at _ 219 _ rfl (by simp only [encode, Row.covers, encX_and_FC0007FE]; rfl) rfl

theorem RowOfEncoding.tlbsync : RowOfEncoding.Statement .tlbsync :=
  row_at _ 220 _ rfl (by simp only [encode, Row.covers, encX_and_FC0007FE]; rfl) rfl

theorem RowOfEncoding.mfsr : RowOfEncoding.Statement .mfsr :=
  row_at _ 221 _ rfl (by simp only [encode, Row.covers, encX_and_FC0007FE]; rfl) rfl

theorem RowOfEncoding.sync : RowOfEncoding.Statement .sync :=
  row_at _ 222 _ rfl (by simp only [encode, Row.covers, encX_and_FC0007FE]; rfl) rfl

theorem RowOfEncoding.mfsrin : RowOfEncoding.Statement .mfsrin :=
  row_at _ 223 _ rfl (by simp only [encode, Row.covers, encX_and_FC0007FE]; rfl) rfl

theorem RowOfEncoding.slbmfev : RowOfEncoding.Statement .slbmfev :=
  row_at _ 224 _ rfl (by simp only [encode, Row.covers, encX_and_FC0007FE]; rfl) rfl

theorem RowOfEncoding.eieio : RowOfEncoding.Statement .eieio :=
  row_at _ 225 _ rfl (by simp only [encode, Row.covers, encX_and_FC0007FE]; rfl) rfl

theorem RowOfEncoding.slbmfee : RowOfEncoding.Statement .slbmfee :=
  row_at _ 226 _ rfl (by simp only [encode, Row.covers, encX_and_FC0007FE]; rfl) rfl

theorem RowOfEncoding.icbi : RowOfEncoding.Statement .icbi :=
  row_at _ 227 _ rfl (by simp only [encode, Row.covers, encX_and_FC0007FE]; rfl) rfl

theorem RowOfEncoding.dcbz : RowOfEncoding.Statement .dcbz :=
  row_at _ 228 _ rfl (by simp only [encode, Row.covers, encX_and_FC0007FE]; rfl) rfl

end Sys2Proof.Laws
end

