-- ==== Sys2Proof/Laws/Status.lean ====
section
/-! SUPPORT. What a floating-point operation does to the FPSCR (R66 to R71, R561, R568), once for every instruction: the bits after
exceptions are recorded, the summaries, when the handler is invoked, and what the delivery of a result leaves alone. -/
namespace Sys2Proof.Machine

set_option Elab.async false

/-! ### Recording exceptions -/

theorem bitAt_foldl_setBitAt (es : List FpExc) (f : Word) (p : Nat) (hp : p < 32) :
    bitAt (es.foldl (fun g e => setBitAt g e.bit true) f) p = (bitAt f p || es.any (fun e => e.bit == p)) := by
  induction es generalizing f with
  | nil => simp
  | cons e es ih =>
    rw [List.foldl_cons, ih, bitAt_setBitAt _ _ _ _ (by cases e <;> decide) hp, List.any_cons]
    by_cases h : p = e.bit
    · simp [h]
    · have h' : (e.bit == p) = false := by simpa using Ne.symm h
      rw [if_neg h, h', Bool.false_or]

/-- The FPSCR after exceptions are recorded, bit by bit: FX if a bit goes from 0 to 1, the exception bits sticky (R66, R67). -/
theorem bitAt_setExc (f : Word) (es : List FpExc) (p : Nat) (hp : p < 32) :
    bitAt (setExc f es) p = (bitAt f p || if p = 0 then es.any (fun e => !bitAt f e.bit) else es.any (fun e => e.bit == p)) := by
  unfold setExc
  rw [bitAt_setBitAt _ _ _ _ (by omega) hp]
  split
  · next h => rw [h]
  · rw [bitAt_foldl_setBitAt _ _ _ hp]

/-- Each exception has its own bit. -/
theorem any_bit_eq (es : List FpExc) (x : FpExc) : es.any (fun e => e.bit == x.bit) = decide (x ∈ es) := by
  rw [Bool.eq_iff_iff, List.any_eq_true, decide_eq_true_iff]
  constructor
  · rintro ⟨e, he, hb⟩
    have : e = x := by revert hb; cases e <;> cases x <;> decide
    exact this ▸ he
  · exact fun h => ⟨x, h, by simp⟩

/-- The list of the exceptions names each with its bit and its enable bit. -/
theorem mem_exceptionPlaces {p : FpExc × Nat × Nat} : p ∈ exceptionPlaces ↔ p.2.1 = p.1.bit ∧ p.2.2 = p.1.enable := by
  obtain ⟨e, b, c⟩ := p
  constructor
  · intro h
    simp only [exceptionPlaces, List.mem_cons, Prod.mk.injEq, List.not_mem_nil, or_false] at h
    rcases h with h | h | h | h | h | h | h | h | h | h | h | h <;> (obtain ⟨rfl, rfl, rfl⟩ := h; decide)
  · rintro ⟨h1, h2⟩
    simp only at h1 h2
    subst h1 h2
    cases e <;> decide

/-! ### The summary bits -/

theorem summariesHold_summarized (f : Word) : summariesHold (summarized f) := by
  constructor
  · rw [bitAt_summarized f 2 (by omega)]
    simp [vxOf, bitAt_summarized]
  · rw [bitAt_summarized f 1 (by omega)]
    simp [fexOf, bitAt_summarized, or_assoc]

theorem recordsExceptions_summarized {occ : List FpExc} {f g : Word} (he : ∀ e : FpExc, bitAt g e.bit = (bitAt f e.bit || decide (e ∈ occ)))
    (h0 : bitAt g 0 = (bitAt f 0 || occ.any (fun e => !bitAt f e.bit))) : recordsExceptions occ f (summarized g) := by
  have other : ∀ e : FpExc, bitAt (summarized g) e.bit = bitAt g e.bit := fun e => by
    rw [bitAt_summarized g e.bit (by cases e <;> decide), if_neg (by cases e <;> decide), if_neg (by cases e <;> decide)]
  refine ⟨fun p hp => ?_, ?_, summariesHold_summarized g⟩
  · rw [(mem_exceptionPlaces.mp hp).1, other, he]
  · rw [bitAt_summarized g 0 (by omega), if_neg (by omega), if_neg (by omega), h0, Bool.or_eq_true, List.any_eq_true]
    refine or_congr Iff.rfl ⟨?_, ?_⟩
    · rintro ⟨e, he, hb⟩
      exact ⟨(e, e.bit, e.enable), mem_exceptionPlaces.mpr ⟨rfl, rfl⟩, he, by simpa using hb⟩
    · rintro ⟨p, hp, he, hb⟩
      exact ⟨p.1, he, by rw [(mem_exceptionPlaces.mp hp).1] at hb; simpa using hb⟩

/-! ### The FPSCR after an operation -/

/-- Bit `p` of the FPSCR after an operation, other than FEX and VX: FR, FI, FPRF, else the exceptions recorded (R561). -/
theorem bitAt_fpscrAfter (f : Word) (o : FpOut) (p : Nat) (hp : p < 32) (h1 : p ≠ 1) (h2 : p ≠ 2) :
    bitAt (fpscrAfter f o) p = if p = 13 then o.fr else if p = 14 then o.fi else
      match o.fprf with
      | some c => if 15 ≤ p ∧ p < 20 then bitAt c (p - 15) else bitAt (setExc f o.occ) p
      | none => bitAt (setExc f o.occ) p := by
  unfold fpscrAfter
  rw [bitAt_summarized _ _ hp, if_neg h1, if_neg h2]
  have base : bitAt (setBitAt (setBitAt (setExc f o.occ) 13 o.fr) 14 o.fi) p =
      if p = 13 then o.fr else if p = 14 then o.fi else bitAt (setExc f o.occ) p := by
    rw [bitAt_setBitAt _ _ _ _ (by omega) hp, bitAt_setBitAt _ _ _ _ (by omega) hp]
    split <;> split <;> first | rfl | omega
  cases o.fprf with
  | none => exact base
  | some c =>
    show bitAt (setFld _ 15 c) p = _
    rw [bitAt_setFld _ _ _ _ (by omega) hp, base]
    by_cases hc : 15 ≤ p ∧ p < 20
    · rw [if_pos (by omega), if_neg (by omega), if_neg (by omega)]
      simp [hc]
    · rw [if_neg (by omega)]
      simp [hc]

/-- An operation records its exceptions in the FPSCR (R66 to R69). -/
theorem recordsExceptions_fpscrAfter (f : Word) (o : FpOut) : recordsExceptions o.occ f (fpscrAfter f o) := by
  have key : ∀ p, p < 13 ∨ 20 ≤ p → p < 32 → p ≠ 1 → p ≠ 2 → bitAt (fpscrAfter f o) p = bitAt (setExc f o.occ) p := by
    intro p h hp h1 h2
    rw [bitAt_fpscrAfter _ _ _ hp h1 h2, if_neg (by omega), if_neg (by omega)]
    cases o.fprf with
    | none => rfl
    | some c => exact if_neg (by omega)
  have hs : summarized (fpscrAfter f o) = fpscrAfter f o := summarized_idem _
  rw [← hs]
  refine recordsExceptions_summarized (fun e => ?_) ?_
  · have hb : (e.bit < 13 ∨ 20 ≤ e.bit) ∧ e.bit < 32 ∧ e.bit ≠ 0 ∧ e.bit ≠ 1 ∧ e.bit ≠ 2 := by cases e <;> decide
    rw [key _ hb.1 hb.2.1 hb.2.2.2.1 hb.2.2.2.2, bitAt_setExc _ _ _ hb.2.1, if_neg hb.2.2.1, any_bit_eq]
  · rw [key 0 (by omega) (by omega) (by omega) (by omega), bitAt_setExc _ _ _ (by omega), if_pos rfl]

/-- FR, FI and FPRF after an operation (R557, R71, R544). -/
theorem fpscrAfter_status (f : Word) (o : FpOut) : bitAt (fpscrAfter f o) 13 = o.fr ∧ bitAt (fpscrAfter f o) 14 = o.fi ∧
    fld (fpscrAfter f o) 15 5 = o.fprf.getD (fld f 15 5) := by
  refine ⟨?_, ?_, ?_⟩
  · rw [bitAt_fpscrAfter _ _ _ (by omega) (by omega) (by omega), if_pos rfl]
  · rw [bitAt_fpscrAfter _ _ _ (by omega) (by omega) (by omega), if_neg (by omega), if_pos rfl]
  · apply eq_of_bitAt
    intro q hq
    rw [bitAt_fld _ _ _ _ (by omega) hq, bitAt_fpscrAfter _ _ _ (by omega) (by omega) (by omega), if_neg (by omega),
      if_neg (by omega)]
    cases o.fprf with
    | some c =>
      show (if 15 ≤ 15 + q ∧ 15 + q < 20 then bitAt c (15 + q - 15) else _) = bitAt c q
      rw [if_pos (by omega), Nat.add_sub_cancel_left]
    | none =>
      show bitAt (setExc f o.occ) (15 + q) = bitAt (fld f 15 5) q
      rw [bitAt_setExc_other _ _ _ (by omega) (by omega), bitAt_fld _ _ _ _ (by omega) hq]
      intro e
      have : e.bit < 15 ∨ 20 ≤ e.bit := by cases e <;> decide
      omega

/-- An operation changes no bit but those of R561. -/
theorem fpscrAfter_other (f : Word) (o : FpOut) (p : Nat) (hp : p < 32) (h : p ∉ operationBits) :
    bitAt (fpscrAfter f o) p = bitAt f p := by
  simp only [operationBits, List.mem_cons, List.not_mem_nil, or_false, not_or] at h
  have hne : ∀ e : FpExc, e.bit ≠ p := fun e => by cases e <;> (simp only [FpExc.bit]; omega)
  have hx := bitAt_setExc_other f o.occ p hp (by omega) hne
  rw [bitAt_fpscrAfter _ _ _ hp (by omega) (by omega), if_neg (by omega), if_neg (by omega)]
  cases o.fprf with
  | none => exact hx
  | some c =>
    show (if 15 ≤ p ∧ p < 20 then bitAt c (p - 15) else bitAt (setExc f o.occ) p) = _
    rw [if_neg (by omega), hx]

/-! ### When the handler is invoked -/

/-- No handler is invoked exactly when no exception that occurred is enabled or exceptions are ignored (R565, R568). -/
theorem untrapped_iff (occ : List FpExc) (s : State) :
    untrapped occ s ↔ causedBy s.fpscr occ = false ∨ s.params.fe = .ignore := by
  unfold untrapped causedBy
  refine or_congr ⟨fun h => ?_, fun h p hp he => ?_⟩ Iff.rfl
  · rw [List.any_eq_false]
    intro e he
    simpa using h (e, e.bit, e.enable) (mem_exceptionPlaces.mpr ⟨rfl, rfl⟩) he
  · rw [(mem_exceptionPlaces.mp hp).2]
    simpa using (List.any_eq_false.mp h) p.1 he

/-! ### Delivery -/

theorem Leaves.deliverFpr {c : Changes} {s t : State} (h : Leaves c s t) (frt : Reg) (single : Bool) (r : Option DWord)
    (hr : frt ∈ c.fprs) : Leaves c s (t.deliverFpr frt single r) := by
  unfold State.deliverFpr
  split
  · exact h.setFpr _ _ _ hr
  · exact h

/-- The delivery of an operation changes only what a floating-point operation may change. -/
theorem Leaves.fpCommit (frt : Reg) (rc single : Bool) (o : FpOut) (s : State) :
    Leaves (fpChanges frt rc) s
      ((((s.setFpscr (fpscrAfter s.fpscr o)).deliverFpr frt single o.result).drew o.drawn).setCr1If rc) := by
  refine (((Leaves.refl _ s).setFpscr _ ?_).deliverFpr _ _ _ ?_).drew _ |>.setCr1If _ ?_
  · exact fun p hp hq => fpscrAfter_other _ _ p hp hq
  · exact List.mem_singleton.mpr rfl
  · intro h
    simp [fpChanges, fpRecordField, h]

end Sys2Proof.Machine
end

