-- ==== Sys2Proof/Tests/Slice0.lean ====
section
/-! SUPPORT. Tests: the well-formedness checks, decoding of words written in the spec, single steps on the spec's vectors, and for
every statement a state and operands that meet its hypotheses. The expected words and results are the spec's. -/
namespace Sys2Proof.Tests

open Sys2Proof Sys2Proof.Machine

set_option Elab.async false
set_option maxRecDepth 20000

/-! ### The states of the tests -/

/-- The storage of the spec's vectors (spec/96_derived_vectors.md), from 0x2000. -/
def vectorBytes : List Byte :=
  [0x80, 0x81, 0x82, 0x83, 0x84, 0x85, 0x86, 0x87, 0xF8, 0xF9, 0xFA, 0xFB, 0xFC, 0xFD, 0xFE, 0xFF,
    0x00, 0x01, 0x02, 0x03, 0x04, 0x05, 0x06, 0x07, 0x7F, 0x6E, 0x5D, 0x4C, 0x3B, 0x2A, 0x19, 0x08]

/-- The start of the spec's vectors, in 64-bit mode. -/
def start : State :=
  { State.reset with pc := 0x1000, mem := Memory.writeAll [] ((List.range 32).map (0x2000 + ·)) vectorBytes }

/-- The same in 32-bit mode. -/
def narrow : State := { start with params := { Params.default with mode64 := false } }

/-- The same in Little-Endian mode. -/
def little : State := { start with le := true }

/-- The same with alignment demanded. -/
def strict : State := { start with params := { Params.default with unaligned := .fault } }

/-- The same with the bytes 0x2000 to 0x2007 and 0x1000 to 0x1003 denied. -/
def guardedState : State :=
  { start with params := { Params.default with denied := [⟨0x2000, 0x2008, true, true, true⟩, ⟨0x1000, 0x1004, true, true, true⟩] } }

/-- The same without the optional facilities. -/
def bare : State :=
  { start with params := { Params.default with hasOcrf := false, hasFpGp := false, hasFpGfx := false, hasMcrxr := false } }

/-- One step with a word placed where it is fetched. -/
def after (w : Word) (s : State) : Option State :=
  match step (s.withFetchWord 32 w.toNat) with
  | .next t => some t
  | _ => none

/-- How a step stops. -/
def faultOf (s : State) : Option Fault :=
  match step s with
  | .fault f => some f
  | _ => none

/-- How one step with a word placed where it is fetched stops. -/
def stops (w : Word) (s : State) : Option Fault := faultOf (s.withFetchWord 32 w.toNat)

/-! ### Well-formedness: each check refuses an ill-formed term (R208) -/

theorem test_sc_bit30_refused : (Instr.sc 0 false).check = some .scBit30 := by decide

theorem test_bcctr_decrementing_refused : (Instr.bcctr 0b10000 0 0 false).check = some .countBranch := by decide

theorem test_load_update_ra_rt_refused :
    (Instr.lwzu 4 4 4).check = some .loadUpdate ∧ (Instr.ldux 3 0 5).check = some .loadUpdate := by decide

theorem test_update_ra_zero_refused :
    (Instr.stwu 1 16 0).check = some .update ∧ (Instr.lfdux 1 0 5).check = some .update := by decide

theorem test_lmw_ra_in_range_refused : (Instr.lmw 3 0 5).check = some .multiple := by decide

theorem test_lswi_ra_in_range_refused : (Instr.lswi 3 4 8).check = some .stringImmediate := by decide

theorem test_lswx_rt_rb_refused : (Instr.lswx 6 4 6).check = some .stringIndexed := by decide

theorem test_valid_forms_accepted :
    (Instr.lwzu 3 4 4).wellFormed = true ∧ (Instr.lmw 29 4 4).wellFormed = true ∧ (Instr.lswi 30 4 9).wellFormed = true ∧
      (Instr.sc 1 true).wellFormed = true ∧ (Instr.bcctr 20 0 0 true).wellFormed = true := by decide

/-! ### Decoding: for every constructor a word written in the spec -/

/-- Instructions of spec/40_branch.md: words written in the spec's examples and vectors or from its encodings. -/
theorem test_decode_branch :
    decodeWord 0x4BFF_FFF9#32 = .ok (.b 16777214 false true) ∧
    decodeWord 0x429F_0005#32 = .ok (.bc 20 31 1 false true) ∧
    decodeWord 0x4E80_1820#32 = .ok (.bclr 20 0 3 false) ∧
    decodeWord 0x4E80_0420#32 = .ok (.bcctr 20 0 0 false) ∧
    decodeWord 0x4400_0022#32 = .ok (.sc 1 true) ∧
    decodeWord 0x4C45_4A02#32 = .ok (.crand 2 5 9) ∧
    decodeWord 0x4C45_4B82#32 = .ok (.cror 2 5 9) ∧
    decodeWord 0x4C45_4982#32 = .ok (.crxor 2 5 9) ∧
    decodeWord 0x4C45_49C2#32 = .ok (.crnand 2 5 9) ∧
    decodeWord 0x4C45_4842#32 = .ok (.crnor 2 5 9) ∧
    decodeWord 0x4C45_4A42#32 = .ok (.creqv 2 5 9) ∧
    decodeWord 0x4C45_4902#32 = .ok (.crandc 2 5 9) ∧
    decodeWord 0x4C45_4B42#32 = .ok (.crorc 2 5 9) ∧
    decodeWord 0x4D9C_0000#32 = .ok (.mcrf 3 7) := by
  decide

/-- Instructions of spec/41_fx_load_store.md: words written in the spec's examples and vectors or from its encodings. -/
theorem test_decode_fx_load_store_1 :
    decodeWord 0x8864_0008#32 = .ok (.lbz 3 8 4) ∧
    decodeWord 0x7C64_28AE#32 = .ok (.lbzx 3 4 5) ∧
    decodeWord 0x8C64_0008#32 = .ok (.lbzu 3 8 4) ∧
    decodeWord 0x7C64_28EE#32 = .ok (.lbzux 3 4 5) ∧
    decodeWord 0xA064_0008#32 = .ok (.lhz 3 8 4) ∧
    decodeWord 0x7C64_2A2E#32 = .ok (.lhzx 3 4 5) ∧
    decodeWord 0xA464_0008#32 = .ok (.lhzu 3 8 4) ∧
    decodeWord 0x7C64_2A6E#32 = .ok (.lhzux 3 4 5) ∧
    decodeWord 0xA864_0008#32 = .ok (.lha 3 8 4) ∧
    decodeWord 0x7C64_2AAE#32 = .ok (.lhax 3 4 5) ∧
    decodeWord 0xAC64_0008#32 = .ok (.lhau 3 8 4) ∧
    decodeWord 0x7C64_2AEE#32 = .ok (.lhaux 3 4 5) ∧
    decodeWord 0x8064_0008#32 = .ok (.lwz 3 8 4) ∧
    decodeWord 0x7C64_282E#32 = .ok (.lwzx 3 4 5) ∧
    decodeWord 0x8464_0008#32 = .ok (.lwzu 3 8 4) ∧
    decodeWord 0x7C64_286E#32 = .ok (.lwzux 3 4 5) ∧
    decodeWord 0xE864_000A#32 = .ok (.lwa 3 2 4) ∧
    decodeWord 0x7C64_2AAA#32 = .ok (.lwax 3 4 5) ∧
    decodeWord 0x7C64_2AEA#32 = .ok (.lwaux 3 4 5) ∧
    decodeWord 0xE864_0008#32 = .ok (.ld 3 2 4) ∧
    decodeWord 0x7C64_282A#32 = .ok (.ldx 3 4 5) ∧
    decodeWord 0xE864_0009#32 = .ok (.ldu 3 2 4) ∧
    decodeWord 0x7C64_286A#32 = .ok (.ldux 3 4 5) ∧
    decodeWord 0x9864_FFF8#32 = .ok (.stb 3 65528 4) := by
  decide

/-- Instructions of spec/41_fx_load_store.md: words written in the spec's examples and vectors or from its encodings. -/
theorem test_decode_fx_load_store_2 :
    decodeWord 0x7C64_29AE#32 = .ok (.stbx 3 4 5) ∧
    decodeWord 0x9C64_FFF8#32 = .ok (.stbu 3 65528 4) ∧
    decodeWord 0x7C64_29EE#32 = .ok (.stbux 3 4 5) ∧
    decodeWord 0xB064_FFF8#32 = .ok (.sth 3 65528 4) ∧
    decodeWord 0x7C64_2B2E#32 = .ok (.sthx 3 4 5) ∧
    decodeWord 0xB464_FFF8#32 = .ok (.sthu 3 65528 4) ∧
    decodeWord 0x7C64_2B6E#32 = .ok (.sthux 3 4 5) ∧
    decodeWord 0x9064_FFF8#32 = .ok (.stw 3 65528 4) ∧
    decodeWord 0x7C64_292E#32 = .ok (.stwx 3 4 5) ∧
    decodeWord 0x9464_FFF8#32 = .ok (.stwu 3 65528 4) ∧
    decodeWord 0x7C64_296E#32 = .ok (.stwux 3 4 5) ∧
    decodeWord 0xF864_FFF8#32 = .ok (.std 3 16382 4) ∧
    decodeWord 0x7C64_292A#32 = .ok (.stdx 3 4 5) ∧
    decodeWord 0xF864_FFF9#32 = .ok (.stdu 3 16382 4) ∧
    decodeWord 0x7C64_296A#32 = .ok (.stdux 3 4 5) := by
  decide

/-- Instructions of spec/42_fx_byte_reverse_multiple_string.md: words written in the spec's examples and vectors or from its encodings. -/
theorem test_decode_fx_multiple :
    decodeWord 0x7C64_2E2C#32 = .ok (.lhbrx 3 4 5) ∧
    decodeWord 0x7C64_2C2C#32 = .ok (.lwbrx 3 4 5) ∧
    decodeWord 0x7C64_2F2C#32 = .ok (.sthbrx 3 4 5) ∧
    decodeWord 0x7C64_2D2C#32 = .ok (.stwbrx 3 4 5) ∧
    decodeWord 0xBBA1_0000#32 = .ok (.lmw 29 0 1) ∧
    decodeWord 0xBFA1_FFF4#32 = .ok (.stmw 29 65524 1) ∧
    decodeWord 0x7CA4_34AA#32 = .ok (.lswi 5 4 6) ∧
    decodeWord 0x7CA4_342A#32 = .ok (.lswx 5 4 6) ∧
    decodeWord 0x7CA4_35AA#32 = .ok (.stswi 5 4 6) ∧
    decodeWord 0x7CA4_352A#32 = .ok (.stswx 5 4 6) := by
  decide

/-- Instructions of spec/43_fx_arithmetic.md: words written in the spec's examples and vectors or from its encodings. -/
theorem test_decode_fx_arithmetic_1 :
    decodeWord 0x3860_FFFF#32 = .ok (.addi 3 0 65535) ∧
    decodeWord 0x3C64_1234#32 = .ok (.addis 3 4 4660) ∧
    decodeWord 0x7C64_2E15#32 = .ok (.add 3 4 5 true true) ∧
    decodeWord 0x7C64_2C50#32 = .ok (.subf 3 4 5 true false) ∧
    decodeWord 0x3064_0001#32 = .ok (.addic 3 4 1) ∧
    decodeWord 0x3464_FFFF#32 = .ok (.addicRc 3 4 65535) ∧
    decodeWord 0x2064_000A#32 = .ok (.subfic 3 4 10) ∧
    decodeWord 0x7C64_2814#32 = .ok (.addc 3 4 5 false false) ∧
    decodeWord 0x7C64_2810#32 = .ok (.subfc 3 4 5 false false) ∧
    decodeWord 0x7C64_2914#32 = .ok (.adde 3 4 5 false false) ∧
    decodeWord 0x7C64_2910#32 = .ok (.subfe 3 4 5 false false) ∧
    decodeWord 0x7C64_05D4#32 = .ok (.addme 3 4 true false) ∧
    decodeWord 0x7C64_01D0#32 = .ok (.subfme 3 4 false false) ∧
    decodeWord 0x7C64_0195#32 = .ok (.addze 3 4 false true) ∧
    decodeWord 0x7C64_0190#32 = .ok (.subfze 3 4 false false) ∧
    decodeWord 0x7C64_04D1#32 = .ok (.neg 3 4 true true) ∧
    decodeWord 0x1C64_FFFD#32 = .ok (.mulli 3 4 65533) ∧
    decodeWord 0x7C64_2DD2#32 = .ok (.mulld 3 4 5 true false) ∧
    decodeWord 0x7C64_2DD6#32 = .ok (.mullw 3 4 5 true false) ∧
    decodeWord 0x7C64_2892#32 = .ok (.mulhd 3 4 5 false) ∧
    decodeWord 0x7C64_2896#32 = .ok (.mulhw 3 4 5 false) ∧
    decodeWord 0x7C64_2812#32 = .ok (.mulhdu 3 4 5 false) ∧
    decodeWord 0x7C64_2816#32 = .ok (.mulhwu 3 4 5 false) ∧
    decodeWord 0x7C64_2FD2#32 = .ok (.divd 3 4 5 true false) := by
  decide

/-- Instructions of spec/43_fx_arithmetic.md: words written in the spec's examples and vectors or from its encodings. -/
theorem test_decode_fx_arithmetic_2 :
    decodeWord 0x7C64_2FD6#32 = .ok (.divw 3 4 5 true false) ∧
    decodeWord 0x7C64_2B92#32 = .ok (.divdu 3 4 5 false false) ∧
    decodeWord 0x7C64_2B96#32 = .ok (.divwu 3 4 5 false false) := by
  decide

/-- Instructions of spec/44_fx_compare_trap_logical.md: words written in the spec's examples and vectors or from its encodings. -/
theorem test_decode_fx_logical_1 :
    decodeWord 0x2F84_FFFF#32 = .ok (.cmpi 7 false 4 65535) ∧
    decodeWord 0x7C24_2800#32 = .ok (.cmp 0 true 4 5) ∧
    decodeWord 0x2804_FFFF#32 = .ok (.cmpli 0 false 4 65535) ∧
    decodeWord 0x7F04_2840#32 = .ok (.cmpl 6 false 4 5) ∧
    decodeWord 0x0A04_0005#32 = .ok (.tdi 16 4 5) ∧
    decodeWord 0x0D04_0000#32 = .ok (.twi 8 4 0) ∧
    decodeWord 0x7D84_2888#32 = .ok (.td 12 4 5) ∧
    decodeWord 0x7FE0_0008#32 = .ok (.tw 31 0 0) ∧
    decodeWord 0x7083_FF00#32 = .ok (.andiRc 3 4 65280) ∧
    decodeWord 0x7483_8000#32 = .ok (.andisRc 3 4 32768) ∧
    decodeWord 0x6083_00FF#32 = .ok (.ori 3 4 255) ∧
    decodeWord 0x6483_FFFF#32 = .ok (.oris 3 4 65535) ∧
    decodeWord 0x6883_FFFF#32 = .ok (.xori 3 4 65535) ∧
    decodeWord 0x6C83_FFFF#32 = .ok (.xoris 3 4 65535) ∧
    decodeWord 0x7C83_2839#32 = .ok (.and 3 4 5 true) ∧
    decodeWord 0x7C83_2B78#32 = .ok (.or 3 4 5 false) ∧
    decodeWord 0x7C83_2A78#32 = .ok (.xor 3 4 5 false) ∧
    decodeWord 0x7C83_2BB8#32 = .ok (.nand 3 4 5 false) ∧
    decodeWord 0x7C83_28F8#32 = .ok (.nor 3 4 5 false) ∧
    decodeWord 0x7C83_2A38#32 = .ok (.eqv 3 4 5 false) ∧
    decodeWord 0x7C83_2878#32 = .ok (.andc 3 4 5 false) ∧
    decodeWord 0x7C83_2B38#32 = .ok (.orc 3 4 5 false) ∧
    decodeWord 0x7C83_0775#32 = .ok (.extsb 3 4 true) ∧
    decodeWord 0x7C83_0735#32 = .ok (.extsh 3 4 true) := by
  decide

/-- Instructions of spec/44_fx_compare_trap_logical.md: words written in the spec's examples and vectors or from its encodings. -/
theorem test_decode_fx_logical_2 :
    decodeWord 0x7C83_07B4#32 = .ok (.extsw 3 4 false) ∧
    decodeWord 0x7C83_0074#32 = .ok (.cntlzd 3 4 false) ∧
    decodeWord 0x7C83_0034#32 = .ok (.cntlzw 3 4 false) := by
  decide

/-- Instructions of spec/45_fx_rotate_shift_move.md: words written in the spec's examples and vectors or from its encodings. -/
theorem test_decode_fx_rotate_move :
    decodeWord 0x7883_4620#32 = .ok (.rldicl 3 4 8 56 false) ∧
    decodeWord 0x7883_07C6#32 = .ok (.rldicr 3 4 32 31 false) ∧
    decodeWord 0x7883_4228#32 = .ok (.rldic 3 4 8 40 false) ∧
    decodeWord 0x5483_463E#32 = .ok (.rlwinm 3 4 8 24 31 false) ∧
    decodeWord 0x7883_2810#32 = .ok (.rldcl 3 4 5 0 false) ∧
    decodeWord 0x7883_2813#32 = .ok (.rldcr 3 4 5 0 true) ∧
    decodeWord 0x5C83_283E#32 = .ok (.rlwnm 3 4 5 0 31 false) ∧
    decodeWord 0x7883_820E#32 = .ok (.rldimi 3 4 48 8 false) ∧
    decodeWord 0x5083_821E#32 = .ok (.rlwimi 3 4 16 8 15 false) ∧
    decodeWord 0x7C83_2836#32 = .ok (.sld 3 4 5 false) ∧
    decodeWord 0x7C83_2830#32 = .ok (.slw 3 4 5 false) ∧
    decodeWord 0x7C83_2C36#32 = .ok (.srd 3 4 5 false) ∧
    decodeWord 0x7C83_2C30#32 = .ok (.srw 3 4 5 false) ∧
    decodeWord 0x7C83_0676#32 = .ok (.sradi 3 4 32 false) ∧
    decodeWord 0x7C83_0E70#32 = .ok (.srawi 3 4 1 false) ∧
    decodeWord 0x7C83_2E34#32 = .ok (.srad 3 4 5 false) ∧
    decodeWord 0x7C83_2E30#32 = .ok (.sraw 3 4 5 false) ∧
    decodeWord 0x7C68_03A6#32 = .ok (.mtspr 8 3) ∧
    decodeWord 0x7C68_02A6#32 = .ok (.mfspr 3 8) ∧
    decodeWord 0x7C6F_F120#32 = .ok (.mtcrf 255 3) ∧
    decodeWord 0x7C60_0026#32 = .ok (.mfcr 3) ∧
    decodeWord 0x7C70_8120#32 = .ok (.mtocrf 8 3) ∧
    decodeWord 0x7C70_8026#32 = .ok (.mfocrf 3 8) ∧
    decodeWord 0x7F80_0400#32 = .ok (.mcrxr 7) := by
  decide

/-- Instructions of spec/46_fp_load_store_move.md: words written in the spec's examples and vectors or from its encodings. -/
theorem test_decode_fp_load_store :
    decodeWord 0xC024_0008#32 = .ok (.lfs 1 8 4) ∧
    decodeWord 0x7C24_2C2E#32 = .ok (.lfsx 1 4 5) ∧
    decodeWord 0xC424_0008#32 = .ok (.lfsu 1 8 4) ∧
    decodeWord 0x7C24_2C6E#32 = .ok (.lfsux 1 4 5) ∧
    decodeWord 0xC824_0008#32 = .ok (.lfd 1 8 4) ∧
    decodeWord 0x7C24_2CAE#32 = .ok (.lfdx 1 4 5) ∧
    decodeWord 0xCC24_0008#32 = .ok (.lfdu 1 8 4) ∧
    decodeWord 0x7C24_2CEE#32 = .ok (.lfdux 1 4 5) ∧
    decodeWord 0xD024_FFF8#32 = .ok (.stfs 1 65528 4) ∧
    decodeWord 0x7C24_2D2E#32 = .ok (.stfsx 1 4 5) ∧
    decodeWord 0xD424_FFF8#32 = .ok (.stfsu 1 65528 4) ∧
    decodeWord 0x7C24_2D6E#32 = .ok (.stfsux 1 4 5) ∧
    decodeWord 0xD824_FFF8#32 = .ok (.stfd 1 65528 4) ∧
    decodeWord 0x7C24_2DAE#32 = .ok (.stfdx 1 4 5) ∧
    decodeWord 0xDC24_FFF8#32 = .ok (.stfdu 1 65528 4) ∧
    decodeWord 0x7C24_2DEE#32 = .ok (.stfdux 1 4 5) ∧
    decodeWord 0x7C24_2FAE#32 = .ok (.stfiwx 1 4 5) ∧
    decodeWord 0xFC20_1091#32 = .ok (.fmr 1 2 true) ∧
    decodeWord 0xFC20_1051#32 = .ok (.fneg 1 2 true) ∧
    decodeWord 0xFC20_1211#32 = .ok (.fabs 1 2 true) ∧
    decodeWord 0xFC20_1111#32 = .ok (.fnabs 1 2 true) := by
  decide

/-- Instructions of spec/47_fp_arithmetic.md: words written in the spec's examples and vectors or from its encodings. -/
theorem test_decode_fp_arithmetic :
    decodeWord 0xFC22_182B#32 = .ok (.fadd 1 2 3 true) ∧
    decodeWord 0xEC22_182A#32 = .ok (.fadds 1 2 3 false) ∧
    decodeWord 0xFC22_1828#32 = .ok (.fsub 1 2 3 false) ∧
    decodeWord 0xEC22_1828#32 = .ok (.fsubs 1 2 3 false) ∧
    decodeWord 0xFC22_00F2#32 = .ok (.fmul 1 2 3 false) ∧
    decodeWord 0xEC22_00F2#32 = .ok (.fmuls 1 2 3 false) ∧
    decodeWord 0xFC22_1825#32 = .ok (.fdiv 1 2 3 true) ∧
    decodeWord 0xEC22_1824#32 = .ok (.fdivs 1 2 3 false) ∧
    decodeWord 0xFC22_20FA#32 = .ok (.fmadd 1 2 3 4 false) ∧
    decodeWord 0xEC22_20FA#32 = .ok (.fmadds 1 2 3 4 false) ∧
    decodeWord 0xFC22_20F8#32 = .ok (.fmsub 1 2 3 4 false) ∧
    decodeWord 0xEC22_20F8#32 = .ok (.fmsubs 1 2 3 4 false) ∧
    decodeWord 0xFC22_20FE#32 = .ok (.fnmadd 1 2 3 4 false) ∧
    decodeWord 0xEC22_20FE#32 = .ok (.fnmadds 1 2 3 4 false) ∧
    decodeWord 0xFC22_20FC#32 = .ok (.fnmsub 1 2 3 4 false) ∧
    decodeWord 0xEC22_20FC#32 = .ok (.fnmsubs 1 2 3 4 false) := by
  decide

/-- Instructions of spec/48_fp_convert_compare.md: words written in the spec's examples and vectors or from its encodings. -/
theorem test_decode_fp_convert :
    decodeWord 0xFC20_1018#32 = .ok (.frsp 1 2 false) ∧
    decodeWord 0xFC20_165C#32 = .ok (.fctid 1 2 false) ∧
    decodeWord 0xFC20_165E#32 = .ok (.fctidz 1 2 false) ∧
    decodeWord 0xFC20_101C#32 = .ok (.fctiw 1 2 false) ∧
    decodeWord 0xFC20_101E#32 = .ok (.fctiwz 1 2 false) ∧
    decodeWord 0xFC20_169C#32 = .ok (.fcfid 1 2 false) ∧
    decodeWord 0xFF81_1000#32 = .ok (.fcmpu 7 1 2) ∧
    decodeWord 0xFC01_1040#32 = .ok (.fcmpo 0 1 2) := by
  decide

/-- Instructions of spec/49_fp_status_optional.md: words written in the spec's examples and vectors or from its encodings. -/
theorem test_decode_fp_status :
    decodeWord 0xFC20_048F#32 = .ok (.mffs 1 true) ∧
    decodeWord 0xFD04_0080#32 = .ok (.mcrfs 2 1) ∧
    decodeWord 0xFC00_910D#32 = .ok (.mtfsfi 0 9 true) ∧
    decodeWord 0xFDFE_0D8E#32 = .ok (.mtfsf 255 1 false) ∧
    decodeWord 0xFEE0_008C#32 = .ok (.mtfsb0 23 false) ∧
    decodeWord 0xFFE0_004D#32 = .ok (.mtfsb1 31 true) ∧
    decodeWord 0xFC20_102C#32 = .ok (.fsqrt 1 2 false) ∧
    decodeWord 0xEC20_102C#32 = .ok (.fsqrts 1 2 false) ∧
    decodeWord 0xEC20_1030#32 = .ok (.fres 1 2 false) ∧
    decodeWord 0xFC20_1034#32 = .ok (.frsqrte 1 2 false) ∧
    decodeWord 0xFC22_20EE#32 = .ok (.fsel 1 2 3 4 false) := by
  decide

/-- Instructions of spec/30_encoding.md: opcode words of R204, the operand fields zero. -/
theorem test_decode_other_books_1 :
    decodeWord 0x4C00_0024#32 = .ok (.rfid) ∧
    decodeWord 0x4C00_012C#32 = .ok (.isync) ∧
    decodeWord 0x7C00_0028#32 = .ok (.lwarx) ∧
    decodeWord 0x7C00_006C#32 = .ok (.dcbst) ∧
    decodeWord 0x7C00_00A6#32 = .ok (.mfmsr) ∧
    decodeWord 0x7C00_00A8#32 = .ok (.ldarx) ∧
    decodeWord 0x7C00_00AC#32 = .ok (.dcbf) ∧
    decodeWord 0x7C00_0124#32 = .ok (.mtmsr) ∧
    decodeWord 0x7C00_012D#32 = .ok (.stwcxRc) ∧
    decodeWord 0x7C00_0164#32 = .ok (.mtmsrd) ∧
    decodeWord 0x7C00_01A4#32 = .ok (.mtsr) ∧
    decodeWord 0x7C00_01AD#32 = .ok (.stdcxRc) ∧
    decodeWord 0x7C00_01E4#32 = .ok (.mtsrin) ∧
    decodeWord 0x7C00_01EC#32 = .ok (.dcbtst) ∧
    decodeWord 0x7C00_022C#32 = .ok (.dcbt) ∧
    decodeWord 0x7C00_0264#32 = .ok (.tlbie) ∧
    decodeWord 0x7C00_026C#32 = .ok (.eciwx) ∧
    decodeWord 0x7C00_02E4#32 = .ok (.tlbia) ∧
    decodeWord 0x7C00_02E6#32 = .ok (.mftb) ∧
    decodeWord 0x7C00_0324#32 = .ok (.slbmte) ∧
    decodeWord 0x7C00_0364#32 = .ok (.slbie) ∧
    decodeWord 0x7C00_036C#32 = .ok (.ecowx) ∧
    decodeWord 0x7C00_03E4#32 = .ok (.slbia) ∧
    decodeWord 0x7C00_046C#32 = .ok (.tlbsync) := by
  decide

/-- Instructions of spec/30_encoding.md: opcode words of R204, the operand fields zero. -/
theorem test_decode_other_books_2 :
    decodeWord 0x7C00_04A6#32 = .ok (.mfsr) ∧
    decodeWord 0x7C00_04AC#32 = .ok (.sync) ∧
    decodeWord 0x7C00_0526#32 = .ok (.mfsrin) ∧
    decodeWord 0x7C00_06A6#32 = .ok (.slbmfev) ∧
    decodeWord 0x7C00_06AC#32 = .ok (.eieio) ∧
    decodeWord 0x7C00_0726#32 = .ok (.slbmfee) ∧
    decodeWord 0x7C00_07AC#32 = .ok (.icbi) ∧
    decodeWord 0x7C00_07EC#32 = .ok (.dcbz) := by
  decide

/-- The illegal and the reserved class (R202, R203): no constructor. -/
theorem test_decode_rejects : decodeWord 0x0000_0000#32 = .error .illegalClass ∧ decodeWord 0xE864_000B#32 = .error .illegalClass ∧
    decode [0x7C, 0x64, 0x2A] = .error .truncated := by
  decide

/-- The words of the opcode table reach the decoder through `decodeTableWord` (R150). -/
theorem test_decode_table_word : decodeTableWord 32 0x7C642A14 = some (.add 3 4 5 false false) := by decide

/-- The split fields of R172 and R173: an SPR number and a six-bit shift. -/
theorem test_encode_split_fields : encode (.mtspr 272 3) = 0x7C70_43A6#32 ∧ encode (.sradi 3 4 63 false) = 0x7C83_FE76#32 := by
  decide

/-! ### Single steps on the spec's vectors -/

/-- `ba -4`: vector B4 of spec/96_derived_vectors.md. -/
theorem test_ba_B4 :
    (after 0x4BFFFFFE#32 narrow).map (fun t => t.pc) = some 0x00000000FFFFFFFC#64 := by
  decide

/-- `bdnz -4`: vector B9 of spec/96_derived_vectors.md. -/
theorem test_bdnz_B9 :
    (after 0x4200FFFC#32 (narrow.setCtr 0x0000000100000001#64)).map (fun t => (t.ctr, t.pc)) = some (0x0000000100000000#64, 0x0000000000001004#64) := by
  decide

/-- `bdzt 4*cr7+so,16 (bc 10,31,16)`: vector B12 of spec/96_derived_vectors.md. -/
theorem test_bdzt_B12 :
    (after 0x415F0010#32 ((start.setCtr 0x0000000000000001#64).setCr 0x00000001#32)).map (fun t => (t.ctr, t.pc)) = some (0x0000000000000000#64, 0x0000000000001010#64) := by
  decide

/-- `blrl`: vector B18 of spec/96_derived_vectors.md. -/
theorem test_blrl_B18 :
    (after 0x4E800021#32 (start.setLr 0x0000000000002000#64)).map (fun t => (t.lr, t.pc)) = some (0x0000000000001004#64, 0x0000000000002000#64) := by
  decide

/-- `bctr`: vector B24 of spec/96_derived_vectors.md. -/
theorem test_bctr_B24 :
    (after 0x4E800420#32 (narrow.setCtr 0x0000000100003002#64)).map (fun t => t.pc) = some 0x0000000000003000#64 := by
  decide

/-- `crand 0,1,2`: vector B30 of spec/96_derived_vectors.md. -/
theorem test_crand_B30 :
    (after 0x4C011202#32 (start.setCr 0x60000000#32)).map (fun t => t.cr) = some 0xE0000000#32 := by
  decide

/-- `mcrf 7,0`: vector B38 of spec/96_derived_vectors.md. -/
theorem test_mcrf_B38 :
    (after 0x4F800000#32 (start.setCr 0xA0000005#32)).map (fun t => t.cr) = some 0xA000000A#32 := by
  decide

/-- `lbz r3,1(r4)`: vector L1 of spec/96_derived_vectors.md. -/
theorem test_lbz_L1 :
    (after 0x88640001#32 ((start.setGpr 4 0x0000000000002000#64).setGpr 3 0xFFFFFFFFFFFFFFFF#64)).map (fun t => t.readGpr 3) = some 0x0000000000000081#64 := by
  decide

/-- `lha r3,8(r4)`: vector L4 of spec/96_derived_vectors.md. -/
theorem test_lha_L4 :
    (after 0xA8640008#32 (start.setGpr 4 0x0000000000002000#64)).map (fun t => t.readGpr 3) = some 0xFFFFFFFFFFFFF8F9#64 := by
  decide

/-- `lwa r3,16(r4)`: vector L9 of spec/96_derived_vectors.md. -/
theorem test_lwa_L9 :
    (after 0xE8640012#32 ((start.setGpr 4 0x0000000000002000#64).setGpr 3 0xFFFFFFFFFFFFFFFF#64)).map (fun t => t.readGpr 3) = some 0x0000000000010203#64 := by
  decide

/-- `ldu r3,8(r4)`: vector L12 of spec/96_derived_vectors.md. -/
theorem test_ldu_L12 :
    (after 0xE8640009#32 (start.setGpr 4 0x0000000000002000#64)).map (fun t => (t.readGpr 3, t.readGpr 4)) = some (0xF8F9FAFBFCFDFEFF#64, 0x0000000000002008#64) := by
  decide

/-- `lwzu r3,4(r4)`: vector L17 of spec/96_derived_vectors.md. -/
theorem test_lwzu_L17 :
    (after 0x84640004#32 (narrow.setGpr 4 0xFFFFFFFF00002000#64)).map (fun t => (t.readGpr 3, t.readGpr 4)) = some (0x0000000084858687#64, 0xFFFFFFFF00002004#64) := by
  decide

/-- `lwbrx r3,0,r5`: vector L24 of spec/96_derived_vectors.md. -/
theorem test_lwbrx_L24 :
    (after 0x7C602C2C#32 ((start.setGpr 5 0x0000000000002008#64).setGpr 0 0x0000000000000077#64)).map (fun t => t.readGpr 3) = some 0x00000000FBFAF9F8#64 := by
  decide

/-- `stw r3,0x20(r4)`: vector L27 of spec/96_derived_vectors.md. -/
theorem test_stw_L27 :
    (after 0x90640020#32 ((start.setGpr 4 0x0000000000002000#64).setGpr 3 0x1122334455667788#64)).map (fun t => [0x2020, 0x2021, 0x2022, 0x2023].map t.readByte) = some [0x55#8, 0x66#8, 0x77#8, 0x88#8] := by
  decide

/-- `stwu r1,-16(r1)`: vector L29 of spec/96_derived_vectors.md. -/
theorem test_stwu_L29 :
    (after 0x9421FFF0#32 (start.setGpr 1 0x0000000000002040#64)).map (fun t => (t.readGpr 1, [0x2030, 0x2031, 0x2032, 0x2033].map t.readByte)) = some (0x0000000000002030#64, [0x00#8, 0x00#8, 0x20#8, 0x40#8]) := by
  decide

/-- `stwbrx r3,r4,r5`: vector L34 of spec/96_derived_vectors.md. -/
theorem test_stwbrx_L34 :
    (after 0x7C642D2C#32 (((start.setGpr 4 0x0000000000002000#64).setGpr 5 0x0000000000000020#64).setGpr 3 0x1122334455667788#64)).map (fun t => [0x2020, 0x2021, 0x2022, 0x2023].map t.readByte) = some [0x88#8, 0x77#8, 0x66#8, 0x55#8] := by
  decide

/-- `lmw r29,4(r4)`: vector L36 of spec/96_derived_vectors.md. -/
theorem test_lmw_L36 :
    (after 0xBBA40004#32 ((((start.setGpr 4 0x0000000000002000#64).setGpr 29 0xFFFFFFFFFFFFFFFF#64).setGpr 30 0xFFFFFFFFFFFFFFFF#64).setGpr 31 0xFFFFFFFFFFFFFFFF#64)).map (fun t => (t.readGpr 29, t.readGpr 30)) = some (0x0000000084858687#64, 0x00000000F8F9FAFB#64) := by
  decide

/-- `lswi r30,r4,9`: vector L39 of spec/96_derived_vectors.md. -/
theorem test_lswi_L39 :
    (after 0x7FC44CAA#32 ((((start.setGpr 4 0x0000000000002000#64).setGpr 30 0xFFFFFFFFFFFFFFFF#64).setGpr 31 0xFFFFFFFFFFFFFFFF#64).setGpr 0 0xFFFFFFFFFFFFFFFF#64)).map (fun t => (t.readGpr 0, t.readGpr 30)) = some (0x00000000F8000000#64, 0x0000000080818283#64) := by
  decide

/-- `lswx r5,r4,r6`: vector L44 of spec/96_derived_vectors.md. -/
theorem test_lswx_L44 :
    (after 0x7CA4342A#32 (((start.setGpr 4 0x0000000000002000#64).setGpr 6 0x0000000000000008#64).setXer 0x0000000000000004#64)).map (fun t => t.readGpr 5) = some 0x00000000F8F9FAFB#64 := by
  decide

/-- `stswx r5,r4,r6`: vector L47 of spec/96_derived_vectors.md. -/
theorem test_stswx_L47 :
    (after 0x7CA4352A#32 ((((start.setGpr 4 0x0000000000002020#64).setGpr 6 0x0000000000000001#64).setGpr 5 0x00000000A1B2C3D4#64).setXer 0x0000000000000003#64)).map (fun t => [0x2021, 0x2022, 0x2023].map t.readByte) = some [0xA1#8, 0xB2#8, 0xC3#8] := by
  decide

/-- `add. r3,r4,r5`: vector A5 of spec/97_derived_vectors_fx.md. -/
theorem test_addRc_A5 :
    (after 0x7C642A15#32 ((narrow.setGpr 4 0x000000007FFFFFFF#64).setGpr 5 0x0000000000000001#64)).map (fun t => (t.readGpr 3, t.cr)) = some (0x0000000080000000#64, 0x80000000#32) := by
  decide

/-- `subfo r3,r4,r5`: vector A10 of spec/97_derived_vectors_fx.md. -/
theorem test_subfo_A10 :
    (after 0x7C642C50#32 ((start.setGpr 4 0x0000000000000001#64).setGpr 5 0x8000000000000000#64)).map (fun t => (t.readGpr 3, t.xer)) = some (0x7FFFFFFFFFFFFFFF#64, 0x00000000C0000000#64) := by
  decide

/-- `addic r3,r4,1`: vector A12 of spec/97_derived_vectors_fx.md. -/
theorem test_addic_A12 :
    (after 0x30640001#32 (narrow.setGpr 4 0x00000000FFFFFFFF#64)).map (fun t => (t.readGpr 3, t.xer)) = some (0x0000000100000000#64, 0x0000000020000000#64) := by
  decide

/-- `addmeo r3,r4`: vector A21 of spec/97_derived_vectors_fx.md. -/
theorem test_addmeo_A21 :
    (after 0x7C6405D4#32 ((start.setGpr 4 0x8000000000000000#64).setXer 0x0000000000000000#64)).map (fun t => (t.readGpr 3, t.xer)) = some (0x7FFFFFFFFFFFFFFF#64, 0x00000000E0000000#64) := by
  decide

/-- `nego r3,r4`: vector A26 of spec/97_derived_vectors_fx.md. -/
theorem test_nego_A26 :
    (after 0x7C6404D0#32 (narrow.setGpr 4 0x0000000080000000#64)).map (fun t => (t.readGpr 3, t.xer)) = some (0xFFFFFFFF80000000#64, 0x00000000C0000000#64) := by
  decide

/-- `mulldo. r3,r4,r5`: vector A30 of spec/97_derived_vectors_fx.md. -/
theorem test_mulldoRc_A30 :
    (after 0x7C642DD3#32 ((start.setGpr 4 0x4000000000000000#64).setGpr 5 0x0000000000000002#64)).map (fun t => (t.readGpr 3, t.cr)) = some (0x8000000000000000#64, 0x90000000#32) := by
  decide

/-- `mullwo r3,r4,r5`: vector A32 of spec/97_derived_vectors_fx.md. -/
theorem test_mullwo_A32 :
    (after 0x7C642DD6#32 ((start.setGpr 4 0x0000000080000000#64).setGpr 5 0x00000000FFFFFFFF#64)).map (fun t => (t.readGpr 3, t.xer)) = some (0x0000000080000000#64, 0x00000000C0000000#64) := by
  decide

/-- `divd r3,r4,r5`: vector A35 of spec/97_derived_vectors_fx.md. -/
theorem test_divd_A35 :
    (after 0x7C642BD2#32 ((start.setGpr 4 0x0000000000000007#64).setGpr 5 0xFFFFFFFFFFFFFFFE#64)).map (fun t => t.readGpr 3) = some 0xFFFFFFFFFFFFFFFD#64 := by
  decide

/-- `cmpi 3,0,r4,0 (cmpwi cr3,r4,0)`: vector A40 of spec/97_derived_vectors_fx.md. -/
theorem test_cmpi_A40 :
    (after 0x2D840000#32 ((start.setGpr 4 0x0000000100000000#64).setXer 0x0000000080000000#64)).map (fun t => t.cr) = some 0x00030000#32 := by
  decide

/-- `cmpl 1,1,r4,r5 (cmpld cr1,r4,r5)`: vector A43 of spec/97_derived_vectors_fx.md. -/
theorem test_cmpl_A43 :
    (after 0x7CA42840#32 ((start.setGpr 4 0x8000000000000000#64).setGpr 5 0x0000000000000001#64)).map (fun t => t.cr) = some 0x04000000#32 := by
  decide

/-- `andis. r3,r4,0x8000`: vector G3 of spec/97_derived_vectors_fx.md. -/
theorem test_andisRc_G3 :
    (after 0x74838000#32 (narrow.setGpr 4 0xFFFFFFFFFFFFFFFF#64)).map (fun t => (t.readGpr 3, t.cr)) = some (0x0000000080000000#64, 0x80000000#32) := by
  decide

/-- `extsb. r3,r4`: vector G16 of spec/97_derived_vectors_fx.md. -/
theorem test_extsbRc_G16 :
    (after 0x7C830775#32 (start.setGpr 4 0x0000001234567880#64)).map (fun t => (t.readGpr 3, t.cr)) = some (0xFFFFFFFFFFFFFF80#64, 0x80000000#32) := by
  decide

/-- `cntlzw r3,r4`: vector G21 of spec/97_derived_vectors_fx.md. -/
theorem test_cntlzw_G21 :
    (after 0x7C830034#32 (start.setGpr 4 0xFFFFFFFF00000000#64)).map (fun t => t.readGpr 3) = some 0x0000000000000020#64 := by
  decide

/-- `rlwinm r3,r4,4,28,3`: vector G24 of spec/97_derived_vectors_fx.md. -/
theorem test_rlwinm_G24 :
    (after 0x54832706#32 (start.setGpr 4 0x0000000012345678#64)).map (fun t => t.readGpr 3) = some 0x2345678120000001#64 := by
  decide

/-- `rlwimi r3,r4,16,0,15`: vector G27 of spec/97_derived_vectors_fx.md. -/
theorem test_rlwimi_G27 :
    (after 0x5083801E#32 ((start.setGpr 4 0x000000000000ABCD#64).setGpr 3 0x1111111122223333#64)).map (fun t => t.readGpr 3) = some 0x11111111ABCD3333#64 := by
  decide

/-- `rldic r3,r4,4,56`: vector G31 of spec/97_derived_vectors_fx.md. -/
theorem test_rldic_G31 :
    (after 0x78832628#32 (start.setGpr 4 0x0000000000000FFF#64)).map (fun t => t.readGpr 3) = some 0x00000000000000F0#64 := by
  decide

/-- `rldcr. r3,r4,r5,0`: vector G34 of spec/97_derived_vectors_fx.md. -/
theorem test_rldcrRc_G34 :
    (after 0x78832813#32 ((start.setGpr 4 0x0000000000000001#64).setGpr 5 0x000000000000003F#64)).map (fun t => (t.readGpr 3, t.cr)) = some (0x8000000000000000#64, 0x80000000#32) := by
  decide

/-- `sld r3,r4,r5`: vector G37 of spec/97_derived_vectors_fx.md. -/
theorem test_sld_G37 :
    (after 0x7C832836#32 ((start.setGpr 4 0xFFFFFFFFFFFFFFFF#64).setGpr 5 0x0000000000000080#64)).map (fun t => t.readGpr 3) = some 0xFFFFFFFFFFFFFFFF#64 := by
  decide

/-- `srawi r3,r4,4`: vector G44 of spec/97_derived_vectors_fx.md. -/
theorem test_srawi_G44 :
    (after 0x7C832670#32 (start.setGpr 4 0x00000000FFFFFFF1#64)).map (fun t => (t.readGpr 3, t.xer)) = some (0xFFFFFFFFFFFFFFFF#64, 0x0000000020000000#64) := by
  decide

/-- `sraw r3,r4,r5`: vector G49 of spec/97_derived_vectors_fx.md. -/
theorem test_sraw_G49 :
    (after 0x7C832E30#32 ((start.setGpr 4 0x0000000080000000#64).setGpr 5 0x0000000000000028#64)).map (fun t => (t.readGpr 3, t.xer)) = some (0xFFFFFFFFFFFFFFFF#64, 0x0000000020000000#64) := by
  decide

/-- `mtspr 1,r3 (mtxer r3)`: vector G50 of spec/97_derived_vectors_fx.md. -/
theorem test_mtspr_G50 :
    (after 0x7C6103A6#32 (start.setGpr 3 0xFFFFFFFFFFFFFFFF#64)).map (fun t => t.xer) = some 0x00000000E000007F#64 := by
  decide

/-- `mtcrf 0x81,r3`: vector G60 of spec/97_derived_vectors_fx.md. -/
theorem test_mtcrf_G60 :
    (after 0x7C681120#32 ((start.setGpr 3 0x00000000A000000B#64).setCr 0x11111111#32)).map (fun t => t.cr) = some 0xA111111B#32 := by
  decide

/-- `mcrxr 2`: vector G64 of spec/97_derived_vectors_fx.md. -/
theorem test_mcrxr_G64 :
    (after 0x7D000400#32 (start.setXer 0x00000000E0000007#64)).map (fun t => (t.cr, t.xer)) = some (0x00E00000#32, 0x0000000000000007#64) := by
  decide

/-- `lfs f1,0(r4)`: vector F2 of spec/98_derived_vectors_fp.md. -/
theorem test_lfs_F2 :
    (after 0xC0240000#32 ((start.setGpr 4 0x0000000000002040#64).storeBytes [0x2040, 0x2041, 0x2042, 0x2043] [0x00#8, 0x00#8, 0x00#8, 0x01#8])).map (fun t => t.readFpr 1) = some 0x36A0000000000000#64 := by
  decide

/-- `lfs f1,0(r4)`: vector F3 of spec/98_derived_vectors_fp.md. -/
theorem test_lfs_F3 :
    (after 0xC0240000#32 ((start.setGpr 4 0x0000000000002040#64).storeBytes [0x2040, 0x2041, 0x2042, 0x2043] [0x7F#8, 0xA0#8, 0x00#8, 0x00#8])).map (fun t => t.readFpr 1) = some 0x7FF4000000000000#64 := by
  decide

/-- `lfdu f1,8(r4)`: vector F5 of spec/98_derived_vectors_fp.md. -/
theorem test_lfdu_F5 :
    (after 0xCC240008#32 (start.setGpr 4 0x0000000000002000#64)).map (fun t => (t.readGpr 4, t.readFpr 1)) = some (0x0000000000002008#64, 0xF8F9FAFBFCFDFEFF#64) := by
  decide

/-- `stfs f1,0x20(r4)`: vector F8 of spec/98_derived_vectors_fp.md. -/
theorem test_stfs_F8 :
    (after 0xD0240020#32 ((start.setGpr 4 0x0000000000002000#64).setFpr 1 0x36A0000000000000#64 false)).map (fun t => [0x2020, 0x2021, 0x2022, 0x2023].map t.readByte) = some [0x00#8, 0x00#8, 0x00#8, 0x01#8] := by
  decide

/-- `stfiwx f1,r4,r5`: vector F11 of spec/98_derived_vectors_fp.md. -/
theorem test_stfiwx_F11 :
    (after 0x7C242FAE#32 (((start.setGpr 4 0x0000000000002000#64).setGpr 5 0x0000000000000020#64).setFpr 1 0x1234567889ABCDEF#64 false)).map (fun t => [0x2020, 0x2021, 0x2022, 0x2023].map t.readByte) = some [0x89#8, 0xAB#8, 0xCD#8, 0xEF#8] := by
  decide

/-- `fabs. f1,f2`: vector F14 of spec/98_derived_vectors_fp.md. -/
theorem test_fabsRc_F14 :
    (after 0xFC201211#32 ((start.setFpr 2 0x8000000000000000#64 false).setFpscr 0x90000000#32)).map (fun t => (t.readFpr 1, t.cr)) = some (0x0000000000000000#64, 0x09000000#32) := by
  decide

/-- `fadd f1,f2,f3`: vector F16 of spec/98_derived_vectors_fp.md. -/
theorem test_fadd_F16 :
    (after 0xFC22182A#32 (((start.setFpr 2 0x3FF0000000000000#64 false).setFpr 3 0x3CA0000000000000#64 false).setFpscr 0x00000003#32)).map (fun t => (t.readFpr 1, t.fpscr)) = some (0x3FF0000000000000#64, 0x82024003#32) := by
  decide

/-- `fadd f1,f2,f3`: vector F21 of spec/98_derived_vectors_fp.md. -/
theorem test_fadd_F21 :
    (after 0xFC22182A#32 (((start.setFpr 2 0x7FEFFFFFFFFFFFFF#64 false).setFpr 3 0x7FEFFFFFFFFFFFFF#64 false).setFpscr 0x00000041#32)).map (fun t => (t.fpscr, t.outcome)) = some (0xD0004041#32, some (.fpEnabled 0x1000)) := by
  decide

/-- `fmul f1,f2,f3`: vector F25 of spec/98_derived_vectors_fp.md. -/
theorem test_fmul_F25 :
    (after 0xFC2200F2#32 ((start.setFpr 2 0x0010000000000001#64 false).setFpr 3 0x3FE0000000000000#64 false)).map (fun t => (t.readFpr 1, t.fpscr)) = some (0x0008000000000000#64, 0x8A034000#32) := by
  decide

/-- `fdiv. f1,f2,f3`: vector F29 of spec/98_derived_vectors_fp.md. -/
theorem test_fdivRc_F29 :
    (after 0xFC221825#32 ((((start.setFpr 2 0xBFF0000000000000#64 false).setFpr 3 0x0000000000000000#64 false).setFpr 1 0x3FF0000000000000#64 false).setFpscr 0x00000010#32)).map (fun t => (t.fpscr, t.outcome)) = some (0xC4000010#32, some (.fpEnabled 0x1000)) := by
  decide

/-- `fmadd f1,f2,f3,f4`: vector F33 of spec/98_derived_vectors_fp.md. -/
theorem test_fmadd_F33 :
    (after 0xFC2220FA#32 (((start.setFpr 2 0x3FF0000000000001#64 false).setFpr 3 0x3FEFFFFFFFFFFFFE#64 false).setFpr 4 0xBFF0000000000000#64 false)).map (fun t => (t.readFpr 1, t.fpscr)) = some (0xB970000000000000#64, 0x00008000#32) := by
  decide

/-- `fmadds f1,f2,f3,f4`: vector F38 of spec/98_derived_vectors_fp.md. -/
theorem test_fmadds_F38 :
    (after 0xEC2220FA#32 (((start.setFpr 2 0x4008000000000000#64 false).setFpr 3 0x3FE0000000000000#64 false).setFpr 4 0x3E70000000000000#64 false)).map (fun t => (t.readFpr 1, t.fpscr)) = some (0x3FF8000000000000#64, 0x82024000#32) := by
  decide

/-- `frsp f1,f2`: vector F42 of spec/98_derived_vectors_fp.md. -/
theorem test_frsp_F42 :
    (after 0xFC201018#32 (start.setFpr 2 0x3690000000000000#64 false)).map (fun t => (t.readFpr 1, t.fpscr)) = some (0x0000000000000000#64, 0x8A022000#32) := by
  decide

/-- `fcfid f1,f2`: vector F51 of spec/98_derived_vectors_fp.md. -/
theorem test_fcfid_F51 :
    (after 0xFC20169C#32 (start.setFpr 2 0x8000000000000000#64 false)).map (fun t => (t.readFpr 1, t.fpscr)) = some (0xC3E0000000000000#64, 0x00008000#32) := by
  decide

/-- `fcmpo 0,f1,f2`: vector F57 of spec/98_derived_vectors_fp.md. -/
theorem test_fcmpo_F57 :
    (after 0xFC011040#32 (((start.setFpr 1 0x7FF4000000000000#64 false).setFpr 2 0x3FF0000000000000#64 false).setFpscr 0x00000080#32)).map (fun t => (t.fpscr, t.outcome)) = some (0xE1001080#32, some (.fpEnabled 0x1000)) := by
  decide

/-- `mcrfs 0,0`: vector F59 of spec/98_derived_vectors_fp.md. -/
theorem test_mcrfs_F59 :
    (after 0xFC000080#32 (start.setFpscr 0xD0000040#32)).map (fun t => (t.cr, t.fpscr)) = some (0xD0000000#32, 0x00000040#32) := by
  decide

/-- `mtfsf 0x80,f2`: vector F65 of spec/98_derived_vectors_fp.md. -/
theorem test_mtfsf_F65 :
    (after 0xFD00158E#32 ((start.setFpr 2 0x0000000000000000#64 false).setFpscr 0xD0000040#32)).map (fun t => t.fpscr) = some 0x00000040#32 := by
  decide

/-- `mtfsb1 5`: vector F68 of spec/98_derived_vectors_fp.md. -/
theorem test_mtfsb1_F68 :
    (after 0xFCA0004C#32 (start.setFpscr 0x00000010#32)).map (fun t => (t.fpscr, t.outcome)) = some (0xC4000010#32, some (.fpEnabled 0x1000)) := by
  decide

/-- `fsel f1,f2,f3,f4`: vector F70 of spec/98_derived_vectors_fp.md. -/
theorem test_fsel_F70 :
    (after 0xFC2220EE#32 (((start.setFpr 2 0x8000000000000000#64 false).setFpr 3 0x4008000000000000#64 false).setFpr 4 0x4010000000000000#64 false)).map (fun t => t.readFpr 1) = some 0x4008000000000000#64 := by
  decide

/-- `fsqrt f1,f2`: vector U10 of spec/98_derived_vectors_fp.md. -/
theorem test_fsqrt_U10 :
    (after 0xFC20102C#32 (start.setFpr 2 0x4000000000000000#64 false)).map (fun t => (t.readFpr 1, t.fpscr)) = some (0x3FF6A09E667F3BCD#64, 0x82064000#32) := by
  decide

/-- `fres f1,f2`: vector U13 of spec/98_derived_vectors_fp.md. -/
theorem test_fres_U13 :
    (after 0xEC201030#32 (start.setFpr 2 0x8000000000000000#64 false)).map (fun t => (t.readFpr 1, t.fpscr)) = some (0xFFF0000000000000#64, 0x84009000#32) := by
  decide

/-! ### Exceptions and stops on the spec's vectors -/

/-- `lwz r3,0(r4)`: vector L22, with the byte at 0x2000 denied. -/
theorem test_lwz_data_storage : (after 0x80640000#32 (guardedState.setGpr 4 0x2000)).map (fun t => (t.outcome, t.readGpr 3)) =
    some (some (.dataStorage 0x2000 false 0x1000), 0) := by
  decide

/-- `lbz r3,0x2001(0)` and `lbz r3,0x2006(0)` in Little-Endian mode with the byte 0x2001 denied: `sa(EA)` is asked for (R106), not the
address 0x2006 or 0x2001 that holds the data (R115). -/
theorem test_lbz_little_endian_availability :
    let s := { little with params := { Params.default with denied := [⟨0x2001, 0x2002, true, false, false⟩] } }
    (after 0x88602001#32 s).map (fun t => t.outcome) = some (some (.dataStorage 0x2001 false 0x1000)) ∧
      (after 0x88602006#32 s).map (fun t => (t.outcome, t.readGpr 3)) = some (none, 0x81) := by
  decide

/-- A fetch in Little-Endian mode asks for the bytes `iea(pc)` to `iea(pc) + 3` (R791), though the word lies at 0x1004. -/
theorem test_fetch_little_endian_availability :
    let denying := fun lo hi : Nat => { little with params := { Params.default with denied := [⟨lo, hi, false, false, true⟩] } }
    (denying 0x1003 0x1004).fetch = .unavailable ∧ (denying 0x1004 0x1008).fetch = .bytes [0, 0, 0, 0] := by
  decide

/-- `tw 2,r4,r5`: vector A47. -/
theorem test_tw_traps : (after 0x7C442808#32 ((start.setGpr 4 1).setGpr 5 0xFFFFFFFF)).map (fun t => (t.outcome, t.pc)) =
    some (some (.trap 0x1000), 0x1000) := by
  decide

/-- `sc 1`: vector B28. -/
theorem test_sc_information : (after 0x44000022#32 start).map (fun t => t.outcome) = some (some (.systemCall true 0x1004)) := by
  decide

/-- `mfspr r3,272`: vector G57. -/
theorem test_mfspr_privileged :
    (after 0x7C7042A6#32 start).map (fun t => t.outcome) = some (some (.privilegedInstruction 0x7C7042A6 0x1000)) := by
  decide

/-- An illegal word (R790). -/
theorem test_illegal_word : (after 0#32 start).map (fun t => t.outcome) = some (some (.illegalInstruction 0 0x1000)) := by
  decide

/-- `lwzu r4,4(r4)` and `lswx r5,r4,r6`: vectors L14 and L43. -/
theorem test_invalid_forms_stop : stops 0x84840004#32 start = some .invalidForm ∧
    stops 0x7CA4342A#32 (start.setXer 5) = some .boundedlyUndefined := by
  decide

/-- A step while a handler has control, and one after the host resumes the program (R783, R811). -/
theorem test_resume : faultOf { start with outcome := some (.trap 0x1000) } = some .handlerInControl ∧
    (resumeAt 0x1007 true { start with outcome := some (.trap 0x1000) }).pc = 0x1004 := by
  decide

/-- A fetch of a stored-into byte (R130): the first of the program's own stores is to the next instruction. -/
theorem test_modified_code_stops :
    (after 0x90640000#32 ((start.setGpr 4 0x1004).setGpr 3 0x60000000)).map faultOf = some (some .fetchModified) := by
  decide

/-- A Little-Endian word load (R115): the byte at 0x2000 exclusive-ORed with 4 is the most significant one. -/
theorem test_lwz_little_endian : (after 0x80640000#32 (little.setGpr 4 0x2000)).map (fun t => t.readGpr 3) = some 0x84858687#64 := by
  decide

/-- `divwo`, whose quotient is undefined: vector U4. -/
theorem test_divwo_overflow :
    (after 0x7C642FD6#32 ((start.setGpr 4 0x80000000).setGpr 5 0xFFFFFFFF)).map (fun t => t.xer) = some 0xC0000000#64 := by
  decide

/-- The Book II and III instructions refuse by name (R204). -/
theorem test_other_books_refused : (match exec .lwarx start with | .refused r => some r | _ => none) = some (.otherBook "lwarx") := by
  decide


/-! ### The hypotheses of the statements are met

Each theorem names its statement and shows, clause by clause and at the ends of the clauses' ranges, a state and operands that
meet its hypotheses. -/

/-- A covered word, a reserved word of each kind, and illegal words at the ends of the unused opcodes. -/
theorem test_meets_OpcodeRowsDoNotOverlap : (∃ a ∈ rows, a.covers 0x7C642A14#32 = true) ∧
    decodeWord 0x00000200#32 = .error .reservedClass ∧ decodeWord 0x24000000#32 = .error .reservedClass ∧
    decodeWord 0x4C000064#32 = .error .reservedClass ∧ decodeWord 0x7C0002D0#32 = .error .reservedClass ∧
    decodeWord 0xE0000000#32 = .error .reservedClass ∧ decodeWord 0xE0000001#32 = .error .illegalClass ∧
    decodeWord 0#32 = .error .illegalClass ∧ decodeWord 0x04000000#32 = .error .illegalClass ∧
    decodeWord 0x7C0007FE#32 = .error .illegalClass ∧ decode [0x7C, 0x64, 0x2A] = .error .truncated := by
  decide

/-- `stwcx.` and `stdcx.` with bit 31 = 0 (log 33): no row covers the words, which are invalid forms and not illegal. -/
theorem test_store_conditional_bit31 : decodeWord 0x7C00012C#32 = .error .invalidForm ∧
    decodeWord 0x7C0321AC#32 = .error .invalidForm ∧ decodeWord 0x7C00012D#32 = .ok .stwcxRc ∧
    stops 0x7C00012C#32 start = some .invalidForm := by
  decide

/-- `fres` with Underflow enabled: a raw estimate 2^-127 for 2^127 is Tiny, so it is adjusted and reported though the implementation
asks for no report (R585, R586); for 2^126 + 2^103 a raw estimate 2^-126 is not Tiny. -/
theorem test_fres_tiny_underflow_enabled :
    (reciprocalEstimate 0x20#32 0x47E0000000000000#64 0x3800000000000000#64 false false).2 = [.ux] ∧
      (reciprocalEstimate 0x20#32 0x47D0000020000000#64 0x3810000000000000#64 false false) = (0x3810000000000000#64, []) := by
  decide

theorem test_meets_StepRunsTheDecodedInstruction :
    let s := start.withFetchWord 32 0x7C642A14
    s.outcome = none ∧ (∀ k : Nat, k < 4 → s.available .fetch (s.iea (wordAligned s.pc + BitVec.ofNat 64 k)).toNat = true) ∧
      (∀ a ∈ s.fetchAddrs, a ∉ s.modified) ∧
      decode (s.fetchAddrs.map s.readByte) = .ok (.add 3 4 5 false false, []) := by
  decide

theorem test_meets_StepWhereNoInstructionRuns :
    let mayFetch := fun (s : State) (k : Nat) => s.available .fetch (s.iea (wordAligned s.pc + BitVec.ofNat 64 k)).toNat
    (guardedState.outcome = none ∧ ∃ k : Nat, k < 4 ∧ mayFetch guardedState k = false) ∧
      (start.outcome = none ∧ (∀ k : Nat, k < 4 → mayFetch start k = true) ∧
        (∀ a ∈ start.fetchAddrs, a ∉ start.modified) ∧ decode (start.fetchAddrs.map start.readByte) = .error .illegalClass) ∧
      ({ start with outcome := some (.trap 0x1000) } : State).outcome = some (.trap 0x1000) ∧
      (∃ a ∈ ({ start with modified := [0x1003] } : State).fetchAddrs, a ∈ ({ start with modified := [0x1003] } : State).modified) := by
  decide

theorem test_meets_StepKeepsTheInvariant :
    (start.withFetchWord 32 0x7C642A14).inv = true ∧ (after 0x7C642A14#32 start).isSome = true := by decide

theorem test_meets_StepKeepsModeAndParameters : (after 0x44000002#32 start).isSome = true := by decide

theorem test_meets_BranchToCountRegister : bitAt 0b00100#5 2 = true ∧ bitAt 0b11011#5 2 = false := by decide

theorem test_meets_BytesOfAScalar : start.littleEndian = false ∧ little.littleEndian = true ∧ (0 : Nat) < 1 ∧ (7 : Nat) < 8 ∧
    (0xFFFFFFFFFFFFFFFF#64).toNat % 1 = 0 ∧ (0xFFFFFFFFFFFFFFF8#64).toNat % 8 = 0 ∧ (3 : Nat) < 4 ∧ (3 : Nat) + 0 + 1 = 4 ∧
    (0 : Nat) + 3 + 1 = 4 := by
  decide

theorem test_meets_HighHalfOfAddressesIsIgnored : start.params.mode64 = true ∧
    narrow.params.mode64 = false ∧ loWord 0xFFFFFFFF_FFFFFFFF#64 = loWord 0x00000000_FFFFFFFF#64 := by decide

theorem test_meets_FixedPointLoads : accessible .load (start.eaD 0 0xFFFF) 1 start ∧ accessible .load (start.eaD 0 0x2000) 2 strict ∧
    accessible .load (start.eaD 0 0x2004) 4 strict ∧ accessible .load (start.eaDS 0 0x802) 8 strict := by
  unfold accessible
  decide

theorem test_meets_FixedPointLoadsWithUpdate :
    (4 : Reg) ≠ 0 ∧ (4 : Reg) ≠ 3 ∧ accessible .load (start.eaD 4 0x2000) 1 start ∧ accessible .load (start.eaDS 4 0x800) 8 strict := by
  unfold accessible
  decide

theorem test_meets_FixedPointStores : Memory.wf start.mem = true ∧ accessible .store (start.eaD 0 0xFFFF) 1 start ∧
    accessible .store (start.eaDS 0 0x802) 8 strict := by
  unfold accessible
  decide

theorem test_meets_FixedPointStoresWithUpdate :
    (1 : Reg) ≠ 0 ∧ Memory.wf start.mem = true ∧ accessible .store (start.eaD 1 0xFFF0) 4 start := by
  unfold accessible
  decide

theorem test_meets_AccessExceptions :
    (strict.params.unaligned = .fault ∧ (strict.eaD 0 0x2001).toNat % 2 ≠ 0) ∧
      (guardedState.params.unaligned = .fault → (guardedState.eaD 0 0x2007).toNat % 8 = 0) ∧
      (∃ i : Nat, i < 8 ∧ guardedState.available .load (guardedState.sa (guardedState.eaD 0 0x2007 + BitVec.ofNat 64 i)).toNat = false) ∧
      (∃ i : Nat, i < 4 ∧ guardedState.available .store (guardedState.sa (guardedState.eaD 0 0x1FFD + BitVec.ofNat 64 i)).toNat = false) ∧
      little.littleEndian = true ∧ guardedState.littleEndian = false ∧ (4 : Reg) ≠ 0 ∧ (4 : Reg) ≠ 3 := by
  decide

/-- Multiples and strings of which the first or a later operand may not be accessed: `lmw r30` and `stmw r30` at 0x1FFC, `lswi` and
`stswi` of 4 bytes at 0x1FFD. -/
theorem test_meets_AccessExceptions_in_order :
    (0 : Reg).toNat < (30 : Reg).toNat ∧
      accessible .load (guardedState.eaD 0 0x1FFC + BitVec.ofNat 64 (4 * 0)) 4 guardedState ∧
      guardedState.available .load (guardedState.sa (guardedState.eaD 0 0x1FFC + BitVec.ofNat 64 (4 * 1) + 0)).toNat = false ∧
      (strict.params.unaligned = .fault ∧ (strict.eaD 0 0x2002 + BitVec.ofNat 64 (4 * 0)).toNat % 4 ≠ 0) ∧
      (∀ k : Nat, k < regsFor 4 → regAfter 5 k ≠ 4 ∧ regAfter 5 k ≠ 6) ∧
      (∀ i : Nat, i < 3 → accessible .store (0x1FFD#64 + BitVec.ofNat 64 (1 * i)) 1 guardedState) ∧
      guardedState.available .store (guardedState.sa (0x1FFD#64 + BitVec.ofNat 64 (1 * 3) + 0)).toNat = false := by
  unfold accessible
  decide

theorem test_meets_LoadAndStoreMultiple : start.littleEndian = false ∧ Memory.wf start.mem = true ∧
    (30 : Reg).toNat < (31 : Reg).toNat ∧ wordsAccessible .load (start.eaD 30 0x2000) (32 - (31 : Reg).toNat) start ∧
    (0 : Reg).toNat < (1 : Reg).toNat ∧ wordsAccessible .load (start.eaD 0 0x2000) (32 - (1 : Reg).toNat) start ∧
    wordsAccessible .store (start.eaD 0 0x2000) (32 - (0 : Reg).toNat) start := by
  unfold wordsAccessible accessible
  decide

theorem test_meets_LoadAndStoreString :
    (∀ k : Nat, k < regsFor 32 → regAfter 5 k ≠ 4) ∧ (∀ k : Nat, k < regsFor 1 → regAfter 4 k ≠ 3) ∧
      bytesAccessible .load (start.ra0 4) 32 start ∧
      ((5 : Reg) ≠ 4 ∧ (start.setXer 124).xer.toNat % 128 ≠ 0 ∧
        ∀ k : Nat, k < regsFor ((start.setXer 124).xer.toNat % 128) → regAfter 5 k ≠ 4 ∧ regAfter 5 k ≠ 4) ∧
      start.xer.toNat % 128 = 0 ∧ Memory.wf start.mem = true ∧ bytesAccessible .store (start.ra0 4) 127 start := by
  unfold bytesAccessible accessible
  decide

theorem test_meets_InvalidFormsStop :
    (∃ k : Nat, k < regsFor 8 ∧ regAfter 3 k = 4) ∧ (∃ k : Nat, k < regsFor 32 ∧ regAfter 29 k = 4) ∧ start.littleEndian = false ∧
      (3 : Reg).toNat ≤ (3 : Reg).toNat ∧
      ((5 : Reg) ≠ 4 ∧ (5 : Reg) ≠ 6 ∧ ∃ k : Nat, k < regsFor ((start.setXer 127).xer.toNat % 128) ∧
        (regAfter 5 k = 4 ∨ regAfter 5 k = 6)) := by
  decide

theorem test_meets_Multiplies : narrow.params.mode64 = false := by decide

theorem test_meets_Divides :
    let a : DWord := 0x8000000000000000
    let w : Word := 0x80000000
    ((-2 : DWord) ≠ 0 ∧ ¬ (a = BitVec.intMin 64 ∧ (-2 : DWord) = -1)) ∧ (a = BitVec.intMin 64 ∧ (-1 : DWord) = -1) ∧
      ((-2 : Word) ≠ 0 ∧ ¬ (w = BitVec.intMin 32 ∧ (-2 : Word) = -1)) ∧ (w = BitVec.intMin 32 ∧ (-1 : Word) = -1) ∧
      narrow.params.mode64 = false := by
  decide

theorem test_meets_Traps :
    let met := fun (sel : BitVec 5) (a b : Int) (ua ub : Nat) => (bitAt sel 0 = true ∧ a < b) ∨ (bitAt sel 1 = true ∧ b < a) ∨
      (bitAt sel 2 = true ∧ a = b) ∨ (bitAt sel 3 = true ∧ ua < ub) ∨ (bitAt sel 4 = true ∧ ub < ua)
    met 0b10000 (-1) 0 (2 ^ 64 - 1) 0 ∧ met 0b00001 (-1) 0 (2 ^ 64 - 1) 0 ∧ met 0b00100 5 5 5 5 ∧ ¬ met 0b01010 (-1) 0 (2 ^ 64 - 1) 0 := by
  decide

theorem test_meets_MoveSpecialRegisters :
    ((272 : BitVec 10) ≠ 1 ∧ (272 : BitVec 10) ≠ 8 ∧ (272 : BitVec 10) ≠ 9 ∧ (272 : BitVec 10).toNat / 16 % 2 = 1) ∧
      ((0 : BitVec 10) ≠ 1 ∧ (0 : BitVec 10).toNat / 16 % 2 = 0) ∧ start.params.reservedReads = .zero ∧
      ({ Params.default with reservedReads := .lastWritten } : Params).reservedReads = .lastWritten := by
  decide

theorem test_meets_MoveConditionRegister : start.params.hasOcrf = true ∧ start.params.hasMcrxr = true ∧
    (∀ m : FieldNum, bitAt 0x80#8 m.toNat = decide (m = 0)) ∧ (∀ m : FieldNum, bitAt 0x01#8 m.toNat = decide (m = 7)) ∧
    start.inv = true ∧
    (let s : State := { start with params := { Params.default with reservedReads := .lastWritten }, xer := 0x10000000 }
     s.inv = true ∧ s.params.hasMcrxr = true ∧ bitAt s.xer 35 = true) := by
  decide

theorem test_meets_AbsentFacilitiesAreIllegal : bare.params.hasOcrf = false ∧ bare.params.hasMcrxr = false ∧
    bare.params.hasFpGp = false ∧ bare.params.hasFpGfx = false := by
  decide

theorem test_meets_FloatingPointLoads : accessible .load (start.eaD 0 0x2000) 4 start ∧ accessible .load (start.eaD 0 0x2001) 8 start ∧
    holdsBytes ((0x80818283#32).setWidth 64) (start.eaD 0 0x2000) 4 start := by
  unfold accessible holdsBytes
  decide

theorem test_meets_FloatingPointStores : Memory.wf start.mem = true ∧ accessible .store (start.eaD 0 0x2000) 4 start ∧
    accessible .store (start.eaD 0 0x2001) 8 start ∧ singleUndefined 0x36A0000000000000#64 = false ∧ singleUndefined 0#64 = false ∧
    start.isSingle 1 = false ∧ (start.setFpr 1 0 true).isSingle 1 = true := by
  unfold accessible
  decide

theorem test_meets_FloatingPointMovesAndSelect : start.params.hasFpGfx = true ∧ bare.params.hasFpGfx = false := by decide

theorem test_meets_EncodingOfExactValues : expOf 0#64 < 2047 ∧ expOf 0xFFEFFFFFFFFFFFFF#64 < 2047 := by decide

theorem test_meets_RoundingIsToTheNeighbourTheModeSelects : (-1074 : Int) ≤ -1074 ∧ (-1076 : Int) ≤ -1074 := by decide

/-- A tie, an exact zero, a denormalized quotient, and values that overflow or do not in either format; with Underflow enabled a
value that is and one that is not below the normalized numbers, with Overflow enabled one that overflows, each in the range that an
adjusted value has; an infinity that a negative multiply-add negates. -/
theorem test_meets_DoubleResultsAreCorrectlyRounded :
    let one := 0x3FF0000000000000#64
    let three := 0x4008000000000000#64
    let most := 0x7FEFFFFFFFFFFFFF#64
    let minute := 0x0000000000000001#64
    let fits := fun (num : Int) (den : Nat) => den * minNormal .double ≤ num.natAbs ∧ 2 * num.natAbs < den * pastLargest .double
    expOf one < 2047 ∧ expOf most < 2047 ∧ isZero three = false ∧ signOf three = false ∧
      (¬ overflows .double 0 (scaledValue one + scaledValue 0x3CA0000000000000#64) 1 ∧
        (fpArith .add .double 0 one 0x3CA0000000000000#64 false).result = some one) ∧
      (¬ overflows .double 0 (scaledValue three - scaledValue three) 1 ∧
        (fpArith .sub .double 3 three three false).result = some 0x8000000000000000#64) ∧
      ¬ overflows .double 0 (scaledValue 0x0010000000000000#64 * 2 ^ 1074) (scaledValue three).natAbs ∧
      overflows .double 0 (scaledValue most + scaledValue most) 1 ∧ ¬ overflows .double 1 (scaledValue most) 1 ∧
      overflows .single 2 (scaledValue 0x47EFFFFFE0000001#64) 1 ∧ ¬ overflows .single 3 (scaledValue 0x47EFFFFFE0000001#64) 1 ∧
      (bitAt 0x20#32 26 = true ∧ scaledValue minute ≠ 0 ∧ (scaledValue minute).natAbs < minNormal .single * 1 ∧
        fits (scaledValue minute * (2 ^ adjustment .single : Nat)) 1 ∧ ¬ (scaledValue one).natAbs < minNormal .single * 1) ∧
      (bitAt 0x40#32 25 = true ∧ overflows .single 0 (scaledValue most) 1 ∧ fits (scaledValue most) (1 * 2 ^ adjustment .single)) ∧
      ((fpMulAdd .double false false 0 most most one false).result = some 0x7FF0000000000000#64 ∧
        expOf 0x7FF0000000000000#64 = 2047) := by
  unfold overflows
  decide

/-- A number that the single format represents: the least positive one. -/
theorem test_meets_rootRounded : inFormat .single 0x36A0000000000000#64 ∧ inFormat .double 1#64 :=
  ⟨⟨by decide, fun _ => ⟨1, by decide⟩⟩, by decide, fun h => by cases h⟩

/-- Operands that the single format represents and one that it does not, and exceptions that invoke no handler or one: the
hypotheses of every statement about a floating-point operation. -/
theorem test_meets_floating_point_operations : start.nonIeee = false ∧ singleRepresentable 0x3FF8000000000000#64 = true ∧
    singleRepresentable 0x3FF0000000000001#64 = false ∧ untrapped [.zx] start ∧ ¬ untrapped [.zx] (start.setFpscr 0x10) ∧
    untrapped [.vxsnan] start ∧ ¬ untrapped [.vxsnan] (start.setFpscr 0x80) ∧ untrapped [] (start.setFpscr 0xF8) ∧
    start.params.hasFpGp = true ∧ start.params.hasFpGfx = true := by
  unfold untrapped
  decide

/-- The operands of the clauses: signaling and quiet NaNs, infinities and zeros of both signs, numbers; for the multiply-add an
product that is endless, one that is invalid and a finite one. -/
theorem test_meets_InvalidOperationAndZeroDivide :
    let inf := 0x7FF0000000000000#64
    let one := 0x3FF0000000000000#64
    let endless := fun a c : DWord => !isNaN a && !isNaN c && !(isInf a && isZero c || isZero a && isInf c) && (isInf a || isInf c)
    isSNaN 0x7FF4000000000000#64 = true ∧ isQNaN 0x7FF8000000000000#64 = true ∧ isSNaN one = false ∧ isNaN inf = false ∧
      isInf inf = true ∧ isInf 0xFFF0000000000000#64 = true ∧ signOf 0xFFF0000000000000#64 = true ∧ signOf inf = false ∧
      isZero 0x8000000000000000#64 = true ∧ (isNaN one = false ∧ isInf one = false ∧ isZero one = false) ∧
      endless inf one = true ∧ endless inf 0 = false ∧ endless one one = false := by
  decide

theorem test_meets_EstimatesAreWithinTheirBounds :
    let fits := fun b : DWord => isNaN b = false ∧ isInf b = false ∧ isZero b = false ∧ 895 ≤ expOf b ∧
      (expOf b < 1149 ∨ (expOf b = 1149 ∧ fracOf b = 0))
    fits 0x37F0000000000000#64 ∧ fits 0xC7CFFFFFFFFFFFFF#64 ∧ fits 0x47D0000000000000#64 ∧
      (expOf 0x36A0000000000000#64 < 895 ∧ 874 ≤ expOf 0x36A0000000000000#64) ∧
      (1149 < expOf 0x47EFFFFFE0000000#64 ∧ expOf 0x47EFFFFFE0000000#64 ≤ 1150) ∧
      (expOf 0x47D0000020000000#64 = 1149 ∧ fracOf 0x47D0000020000000#64 ≠ 0) ∧ signOf 0x0000000000000001#64 = false := by
  decide

/-- The ends of the ranges of a doubleword and a word, toward zero and in another mode. -/
theorem test_meets_ConversionTowardZero :
    let n := fun (rn : BitVec 2) (x : DWord) => integerOf rn (scaledValue x)
    expOf 0x7FEFFFFFFFFFFFFF#64 < 2047 ∧ n 1 0xC3E0000000000000#64 = -(2 ^ 63) ∧ n 1 0x43DFFFFFFFFFFFFF#64 < 2 ^ 63 ∧
      n 1 0xC3E0000000000001#64 < -(2 ^ 63) ∧ n 1 0x43E0000000000000#64 = 2 ^ 63 ∧ n 1 0x41DFFFFFFFFFFFFF#64 = 2 ^ 31 - 1 ∧
      n 0 0x41DFFFFFFFFFFFFF#64 = 2 ^ 31 ∧ n 0 0x3FE0000000000000#64 = 0 ∧ n 0 0x3FF8000000000000#64 = 2 ∧
      n 2 0xBFF8000000000000#64 = -1 ∧ n 3 0xBFF8000000000000#64 = -2 := by
  decide

theorem test_meets_ComparisonIsOfExactValues : isNaN 0x7FF0000000000001#64 = true ∧
    scaledValue 0x7FEFFFFFFFFFFFFF#64 < scaledValue 0x7FF0000000000000#64 ∧ scaledValue 0#64 = scaledValue 0x8000000000000000#64 := by
  decide

theorem test_meets_ReadAndClearStatus : start.inv = true ∧ (31 : BitNum) ≠ 1 ∧ (31 : BitNum) ≠ 2 := by decide

/-- Without and with an exception bit that comes to stand with its enable bit; values for `mtfsf` and `mtfsb1`. -/
theorem test_meets_WriteStatus :
    let pairs := [(3, 25), (4, 26), (5, 27), (6, 28), (7, 24), (8, 24), (9, 24), (10, 24), (11, 24), (12, 24), (21, 24), (22, 24),
      (23, 24)]
    let quiet := fun (s : State) (new : Word) => s.params.fe = .ignore ∨ ∀ p ∈ pairs, bitAt new p.1 = true → bitAt new p.2 = true →
      bitAt s.fpscr p.1 = true ∧ bitAt s.fpscr p.2 = true
    start.inv = true ∧ quiet start 0x10 ∧ ¬ quiet start 0x04000010 ∧ start.params.hasNi = false ∧
      (let s : State := { start with params := { Params.default with hasNi := true, reservedReads := .lastWritten }, fpscr := 0x44000814 }
       s.inv = true ∧ quiet s 0x04000010 ∧ ¬ quiet s 0x00000480) ∧
      (∃ b : Reg, ∀ p : Nat, p < 32 → bitAt 0xF0000000#32 p =
        if bitAt 0x80#8 (p / 4) then bitAt ((start.setFpr 2 0xF0000000 false).readFpr b) (32 + p) else bitAt start.fpscr p) ∧
      (∀ p : Nat, p < 32 → bitAt 0x84000000#32 p = (bitAt start.fpscr p || decide (p = (5 : BitNum).toNat) ||
        (decide (p = 0) && [3, 4, 5, 6, 7, 8, 9, 10, 11, 12, 21, 22, 23].contains (5 : BitNum).toNat &&
          !bitAt start.fpscr (5 : BitNum).toNat))) := by
  refine ⟨by decide, by decide, by decide, by decide, by decide, ⟨2, by decide⟩, by decide⟩

theorem test_meets_NonIeeeModeIsRefused :
    let s := { start with params := { Params.default with hasNi := true }, fpscr := 0x00000004#32 }
    s.params.hasNi = true ∧ bitAt s.fpscr 29 = true ∧ s.params.hasFpGp = true ∧ s.params.hasFpGfx = true := by
  decide

end Sys2Proof.Tests
end

section
/-! Scope: what no step changes (R12, R113), and the instructions of absent facilities (R209, R790). -/
namespace Sys2Proof.Machine

/-! ### Updates that keep the byte order and the parameters -/

section
variable {s t : State}

theorem sameMode.refl (s : State) : sameMode s s := ⟨rfl, rfl, rfl⟩

theorem sameMode.setGpr {r : Reg} {v : DWord} (h : sameMode s t) : sameMode s (t.setGpr r v) := h

theorem sameMode.setFpr {r : Reg} {v : DWord} {b : Bool} (h : sameMode s t) : sameMode s (t.setFpr r v b) := h

theorem sameMode.setCr {v : Word} (h : sameMode s t) : sameMode s (t.setCr v) := h

theorem sameMode.setCrField {n : FieldNum} {v : BitVec 4} (h : sameMode s t) : sameMode s (t.setCrField n v) := h

theorem sameMode.setCrBit {b : BitNum} {v : Bool} (h : sameMode s t) : sameMode s (t.setCrBit b v) := h

theorem sameMode.setLr {v : DWord} (h : sameMode s t) : sameMode s (t.setLr v) := h

theorem sameMode.setCtr {v : DWord} (h : sameMode s t) : sameMode s (t.setCtr v) := h

theorem sameMode.setXer {v : DWord} (h : sameMode s t) : sameMode s (t.setXer v) := h

theorem sameMode.setCa {b : Bool} (h : sameMode s t) : sameMode s (t.setCa b) := h

theorem sameMode.setFpscr {v : Word} (h : sameMode s t) : sameMode s (t.setFpscr v) := h

theorem sameMode.drew {n : Nat} (h : sameMode s t) : sameMode s (t.drew n) := h

theorem sameMode.setOvIf {oe b : Bool} (h : sameMode s t) : sameMode s (t.setOvIf oe b) := by
  unfold State.setOvIf
  split <;> exact h

theorem sameMode.setCr0If {rc : Bool} {v : DWord} (h : sameMode s t) : sameMode s (t.setCr0If rc v) := by
  unfold State.setCr0If
  split <;> exact h

theorem sameMode.setCr1If {rc : Bool} (h : sameMode s t) : sameMode s (t.setCr1If rc) := by
  unfold State.setCr1If
  split <;> exact h

theorem sameMode.setCr0WordIf {rc undef : Bool} {res v : DWord} (h : sameMode s t) :
    sameMode s (t.setCr0WordIf rc undef res v) := by
  unfold State.setCr0WordIf
  split
  · split <;> exact h
  · exact h

theorem sameMode.xoResult {rt : Reg} {res : DWord} {ov oe rc : Bool} (h : sameMode s t) :
    sameMode s (t.xoResult rt res ov oe rc) := h.setGpr.setOvIf.setCr0If

theorem sameMode.writeXer {v : DWord} (h : sameMode s t) : sameMode s (t.writeXer v) := by
  unfold State.writeXer
  split <;> exact h

theorem sameMode.writeFpscr {v : Word} (h : sameMode s t) : sameMode s (t.writeFpscr v) := by
  unfold State.writeFpscr
  split <;> exact h

theorem sameMode.deliverFpr {frt : Reg} {single : Bool} {r : Option DWord} (h : sameMode s t) :
    sameMode s (t.deliverFpr frt single r) := by
  unfold State.deliverFpr
  split <;> exact h

theorem sameMode.setGprs {r : Reg} {vs : List DWord} (h : sameMode s t) : sameMode s (t.setGprs r vs) := by
  simpa [sameMode] using h

theorem sameMode.storeValue {ea v : DWord} {n : Nat} (h : sameMode s t) : sameMode s (t.storeValue ea n v) := by
  simpa [sameMode] using h

theorem sameMode.storeValues {w : Nat} {eas vs : List DWord} (h : sameMode s t) : sameMode s (t.storeValues w eas vs) := by
  simpa [sameMode] using h

theorem sameMode.storeSingle {frs : Reg} {ea : DWord} (h : sameMode s t) : sameMode s (t.storeSingle frs ea) := by
  unfold State.storeSingle
  dsimp only
  split
  · exact h.storeValue.drew
  · exact h.storeValue

theorem sameMode.decremented {bo : BitVec 5} (h : sameMode s t) : sameMode s (t.decremented bo) := by
  unfold State.decremented
  split <;> exact h

theorem sameMode.linkIf {lk : Bool} (h : sameMode s t) : sameMode s (t.linkIf lk) := by
  unfold State.linkIf
  split <;> exact h

theorem sameMode.branchIf {taken : Bool} {target : DWord} (h : sameMode s t) : sameMode s (t.branchIf taken target) := by
  unfold State.branchIf
  split <;> exact h

end

/-! ### Answers that keep them -/

/-- A next state, where the answer is one, has the byte order and the parameters of `s`. -/
def KeepsMode (s : State) (o : Out) : Prop := ∀ t : State, o = .next t → sameMode s t

section
variable {s t : State}

theorem keepsMode_next (h : sameMode s t) : KeepsMode s (.next t) := by
  rintro _ ⟨⟩
  exact h

theorem keepsMode_advance (h : sameMode s t) : KeepsMode s (.next (advance t)) := keepsMode_next h

theorem keepsMode_takeException {e : Exception} (h : sameMode s t) : KeepsMode s (takeException e t) := keepsMode_next h

theorem keepsMode_fault {r : Fault} : KeepsMode s (.fault r) := by rintro _ ⟨⟩

theorem keepsMode_refused {r : Refusal} : KeepsMode s (.refused r) := by rintro _ ⟨⟩

theorem keepsMode_illegal : KeepsMode s (illegal s) := keepsMode_takeException (.refl s)

theorem keepsMode_privileged : KeepsMode s (privileged s) := keepsMode_takeException (.refl s)

theorem KeepsMode.ite {c : Prop} [Decidable c] {o p : Out} (ho : KeepsMode s o) (hp : KeepsMode s p) :
    KeepsMode s (if c then o else p) := by
  split
  · exact ho
  · exact hp

theorem keepsMode_guarded {e : Option Exception} (h : sameMode s t) : KeepsMode s (guarded e s t) := by
  cases e with
  | none => exact keepsMode_advance h
  | some x => exact keepsMode_takeException (.refl s)

theorem keepsMode_fpFinish {rc caused : Bool} (h : sameMode s t) : KeepsMode s (fpFinish rc caused t) :=
  .ite (keepsMode_takeException h.setCr1If) (keepsMode_advance h.setCr1If)

/-! ### The shared operations -/

theorem keepsMode_branchConditional {bo : BitVec 5} {bi : BitNum} {target : DWord} {lk : Bool} :
    KeepsMode s (branchConditional bo bi target lk s) := keepsMode_next (sameMode.refl s).decremented.linkIf.branchIf

theorem keepsMode_loadGpr {rt : Reg} {ea : DWord} {n : Nat} {conv : DWord → DWord} : KeepsMode s (loadGpr rt ea n conv s) :=
  keepsMode_guarded (sameMode.refl s).setGpr

theorem keepsMode_loadGprUpdate {rt ra : Reg} {ea : DWord} {n : Nat} {conv : DWord → DWord} :
    KeepsMode s (loadGprUpdate rt ra ea n conv s) := .ite keepsMode_fault (keepsMode_guarded (sameMode.refl s).setGpr.setGpr)

theorem keepsMode_storeScalar {v ea : DWord} {n : Nat} : KeepsMode s (storeScalar v ea n s) :=
  keepsMode_guarded (sameMode.refl s).storeValue

theorem keepsMode_storeScalarUpdate {v ea : DWord} {ra : Reg} {n : Nat} : KeepsMode s (storeScalarUpdate v ra ea n s) :=
  .ite keepsMode_fault (keepsMode_guarded (sameMode.refl s).storeValue.setGpr)

theorem keepsMode_unlessLittleEndian {ea : DWord} {o : Out} (h : KeepsMode s o) : KeepsMode s (unlessLittleEndian ea s o) :=
  .ite (keepsMode_takeException (.refl s)) h

theorem keepsMode_loadString {rt : Reg} {ea : DWord} {n : Nat} : KeepsMode s (loadString rt ea n s) :=
  keepsMode_guarded (sameMode.refl s).setGprs

theorem keepsMode_storeString {rs : Reg} {ea : DWord} {n : Nat} : KeepsMode s (storeString rs ea n s) :=
  keepsMode_guarded (sameMode.refl s).storeValues

theorem keepsMode_sumOut {rt : Reg} {x : Sum} {oe rc : Bool} : KeepsMode s (sumOut rt x oe rc s) :=
  keepsMode_advance (sameMode.refl s).xoResult

theorem keepsMode_carryingOut {rt : Reg} {x : Sum} {oe rc : Bool} : KeepsMode s (carryingOut rt x oe rc s) :=
  keepsMode_advance (sameMode.refl s).setCa.xoResult

theorem keepsMode_highWordOut {rt : Reg} {w : Word} {rc : Bool} : KeepsMode s (highWordOut rt w rc s) :=
  keepsMode_advance (sameMode.refl s).setGpr.setCr0WordIf.drew

theorem keepsMode_divideDouble {rt : Reg} {bad : Bool} {q : DWord} {oe rc : Bool} : KeepsMode s (divideDouble rt bad q oe rc s) :=
  .ite (keepsMode_advance (sameMode.refl s).setGpr.setOvIf.setCr0WordIf.drew) (keepsMode_advance (sameMode.refl s).xoResult)

theorem keepsMode_divideWord {rt : Reg} {bad : Bool} {q : Word} {oe rc : Bool} : KeepsMode s (divideWord rt bad q oe rc s) :=
  keepsMode_advance (sameMode.refl s).setGpr.setOvIf.setCr0WordIf.drew

theorem keepsMode_compareOut {bf : FieldNum} {c : BitVec 4} : KeepsMode s (compareOut bf c s) :=
  keepsMode_advance (sameMode.refl s).setCrField

theorem keepsMode_trapOut {sel : BitVec 5} {a b : DWord} : KeepsMode s (trapOut sel a b s) :=
  .ite (keepsMode_takeException (.refl s)) (keepsMode_advance (.refl s))

theorem keepsMode_logicalOut {ra : Reg} {v : DWord} {rc : Bool} : KeepsMode s (logicalOut ra v rc s) :=
  keepsMode_advance (sameMode.refl s).setGpr.setCr0If

theorem keepsMode_rotateOut {ra : Reg} {v : DWord} {rc : Bool} : KeepsMode s (rotateOut ra v rc s) :=
  keepsMode_advance (sameMode.refl s).setGpr.setCr0If

theorem keepsMode_shiftAlgebraicOut {ra : Reg} {r m : DWord} {sign lost rc : Bool} :
    KeepsMode s (shiftAlgebraicOut ra r m sign lost rc s) := keepsMode_advance (sameMode.refl s).setGpr.setCa.setCr0If

theorem keepsMode_otherSpr {spr : BitVec 10} : KeepsMode s (otherSpr spr s) := .ite keepsMode_privileged keepsMode_illegal

theorem keepsMode_fpAccess {k : Access} {ea : DWord} {n : Nat} (h : sameMode s t) : KeepsMode s (fpAccess k ea n t s) :=
  keepsMode_guarded h

theorem keepsMode_fpAccessUpdate {k : Access} {ra : Reg} {ea : DWord} {n : Nat} (h : sameMode s t) :
    KeepsMode s (fpAccessUpdate k ra ea n t s) := .ite keepsMode_fault (keepsMode_guarded h.setGpr)

theorem keepsMode_fpCommit {frt : Reg} {rc single : Bool} {o : FpOut} : KeepsMode s (fpCommit frt rc single o s) :=
  keepsMode_fpFinish (sameMode.refl s).setFpscr.deliverFpr.drew

theorem keepsMode_undefinedSingle {frt : Reg} {rc : Bool} {bits : List Nat} : KeepsMode s (undefinedSingle frt rc bits s) := by
  unfold undefinedSingle
  refine keepsMode_advance (sameMode.drew ?_)
  split
  · exact (sameMode.refl s).setFpscr.setFpr.setCrField
  · exact (sameMode.refl s).setFpscr.setFpr

theorem keepsMode_arithDouble {op : ArithOp} {frt ra rb : Reg} {rc : Bool} : KeepsMode s (arithDouble op frt ra rb rc s) :=
  .ite keepsMode_refused keepsMode_fpCommit

theorem keepsMode_arithSingle {op : ArithOp} {frt ra rb : Reg} {rc : Bool} : KeepsMode s (arithSingle op frt ra rb rc s) :=
  .ite keepsMode_refused (.ite keepsMode_fpCommit keepsMode_undefinedSingle)

theorem keepsMode_mulAddDouble {sub neg : Bool} {frt ra rc' rb : Reg} {rc : Bool} :
    KeepsMode s (mulAddDouble sub neg frt ra rc' rb rc s) := .ite keepsMode_refused keepsMode_fpCommit

theorem keepsMode_mulAddSingle {sub neg : Bool} {frt ra rc' rb : Reg} {rc : Bool} :
    KeepsMode s (mulAddSingle sub neg frt ra rc' rb rc s) :=
  .ite keepsMode_refused (.ite keepsMode_fpCommit keepsMode_undefinedSingle)

theorem keepsMode_convertOut {word towardZero : Bool} {frt frb : Reg} {rc : Bool} :
    KeepsMode s (convertOut word towardZero frt frb rc s) := .ite keepsMode_refused keepsMode_fpCommit

theorem keepsMode_compareFinish {bf : FieldNum} {c : BitVec 4} {es : List FpExc} : KeepsMode s (compareFinish bf c es s) :=
  keepsMode_fpFinish (sameMode.refl s).setFpscr.setCrField

theorem keepsMode_writeFpscrOut {v : Word} {rc : Bool} : KeepsMode s (writeFpscrOut v rc s) :=
  keepsMode_fpFinish (sameMode.refl s).writeFpscr

end

/-! ### Every instruction, and the step -/

/-- No instruction changes the byte order or a parameter: the cases are the shared operations that the instructions end in. -/
theorem exec_keepsMode (i : Instr) (s : State) : KeepsMode s (exec i s) := by
  have same := sameMode.refl s
  cases i with
  | b => exact keepsMode_next same.linkIf.branchIf
  | bc | bclr => exact keepsMode_branchConditional
  | bcctr => exact .ite keepsMode_fault (keepsMode_next same.linkIf.branchIf)
  | sc => exact .ite (keepsMode_takeException same) keepsMode_fault
  | crand | cror | crxor | crnand | crnor | creqv | crandc | crorc => exact keepsMode_advance same.setCrBit
  | mcrf => exact keepsMode_advance same.setCrField
  | lbz | lbzx | lhz | lhzx | lha | lhax | lwz | lwzx | lwa | lwax | ld | ldx | lhbrx | lwbrx => exact keepsMode_loadGpr
  | lbzu | lbzux | lhzu | lhzux | lhau | lhaux | lwzu | lwzux | lwaux | ldu | ldux => exact keepsMode_loadGprUpdate
  | stb | stbx | sth | sthx | stw | stwx | std | stdx | sthbrx | stwbrx => exact keepsMode_storeScalar
  | stbu | stbux | sthu | sthux | stwu | stwux | stdu | stdux => exact keepsMode_storeScalarUpdate
  | lmw => exact keepsMode_unlessLittleEndian (.ite keepsMode_fault (keepsMode_guarded same.setGprs))
  | stmw => exact keepsMode_unlessLittleEndian (keepsMode_guarded same.storeValues)
  | lswi => exact keepsMode_unlessLittleEndian (.ite keepsMode_fault keepsMode_loadString)
  | lswx =>
    exact keepsMode_unlessLittleEndian (.ite keepsMode_fault (.ite (keepsMode_advance same.setGpr.drew)
      (.ite keepsMode_fault keepsMode_loadString)))
  | stswi | stswx => exact keepsMode_unlessLittleEndian keepsMode_storeString
  | addi | addis | mulli | mfcr => exact keepsMode_advance same.setGpr
  | add | subf | neg => exact keepsMode_sumOut
  | addic | addicRc | subfic | addc | subfc | adde | subfe | addme | subfme | addze | subfze => exact keepsMode_carryingOut
  | mulld | mullw | mulhd | mulhdu => exact keepsMode_advance same.xoResult
  | mulhw | mulhwu => exact keepsMode_highWordOut
  | divd | divdu => exact keepsMode_divideDouble
  | divw | divwu => exact keepsMode_divideWord
  | cmpi | cmp | cmpli | cmpl => exact keepsMode_compareOut
  | tdi | twi | td | tw => exact keepsMode_trapOut
  | andiRc | andisRc | ori | oris | xori | xoris | and | or | xor | nand | nor | eqv | andc | orc | extsb | extsh | extsw
  | cntlzd | cntlzw => exact keepsMode_logicalOut
  | rldicl | rldicr | rldic | rlwinm | rldcl | rldcr | rlwnm | rldimi | rlwimi | sld | slw | srd | srw =>
    exact keepsMode_rotateOut
  | sradi | srawi | srad | sraw => exact keepsMode_shiftAlgebraicOut
  | mtspr =>
    exact .ite (keepsMode_advance same.writeXer) (.ite (keepsMode_advance same.setLr)
      (.ite (keepsMode_advance same.setCtr) keepsMode_otherSpr))
  | mfspr =>
    exact .ite (keepsMode_advance same.setGpr) (.ite (keepsMode_advance same.setGpr)
      (.ite (keepsMode_advance same.setGpr) keepsMode_otherSpr))
  | mtcrf => exact keepsMode_advance same.setCr
  | mtocrf => exact .ite keepsMode_illegal (.ite (keepsMode_advance same.setCr) (keepsMode_advance same.setCr.drew))
  | mfocrf => exact .ite keepsMode_illegal (keepsMode_advance same.setGpr.drew)
  | mcrxr => exact .ite keepsMode_illegal (keepsMode_advance same.setCrField.setXer)
  | lfs | lfsx | lfd | lfdx => exact keepsMode_fpAccess same.setFpr
  | lfsu | lfsux | lfdu | lfdux => exact keepsMode_fpAccessUpdate same.setFpr
  | stfs | stfsx => exact keepsMode_fpAccess same.storeSingle
  | stfsu | stfsux => exact keepsMode_fpAccessUpdate same.storeSingle
  | stfd | stfdx => exact keepsMode_fpAccess same.storeValue
  | stfdu | stfdux => exact keepsMode_fpAccessUpdate same.storeValue
  | stfiwx =>
    refine keepsMode_fpAccess ?_
    split
    · exact same.storeValue.drew
    · exact same.storeValue
  | fmr | fneg | fabs | fnabs => exact keepsMode_advance same.setFpr.setCr1If
  | fadd | fsub | fmul | fdiv => exact keepsMode_arithDouble
  | fadds | fsubs | fmuls | fdivs => exact keepsMode_arithSingle
  | fmadd | fmsub | fnmadd | fnmsub => exact keepsMode_mulAddDouble
  | fmadds | fmsubs | fnmadds | fnmsubs => exact keepsMode_mulAddSingle
  | frsp | fcfid => exact .ite keepsMode_refused keepsMode_fpCommit
  | fctid | fctidz | fctiw | fctiwz => exact keepsMode_convertOut
  | fcmpu | fcmpo => exact .ite keepsMode_refused keepsMode_compareFinish
  | mffs => exact keepsMode_advance same.setFpr.drew.setCr1If
  | mcrfs => exact keepsMode_advance same.setCrField.setFpscr
  | mtfsfi | mtfsf => exact keepsMode_writeFpscrOut
  | mtfsb0 =>
    refine keepsMode_advance (sameMode.setCr1If ?_)
    split
    · exact same
    · exact same.writeFpscr
  | mtfsb1 => exact .ite (keepsMode_advance same.setCr1If) keepsMode_writeFpscrOut
  | fsqrt | frsqrte => exact .ite keepsMode_illegal (.ite keepsMode_refused keepsMode_fpCommit)
  | fsqrts | fres =>
    exact .ite keepsMode_illegal (.ite keepsMode_refused (.ite keepsMode_fpCommit keepsMode_undefinedSingle))
  | fsel => exact .ite keepsMode_illegal (keepsMode_advance same.setFpr.setCr1If)
  | isync | sync | eieio | dcbt | dcbtst => exact keepsMode_advance same
  | mfmsr | mfsr | mfsrin => exact keepsMode_privileged
  | rfid | lwarx | dcbst | ldarx | dcbf | mtmsr | stwcxRc | mtmsrd | mtsr | stdcxRc | mtsrin | tlbie | eciwx | tlbia | mftb
  | slbmte | slbie | ecowx | slbia | tlbsync | slbmfev | slbmfee | icbi | dcbz => exact keepsMode_refused

theorem execRejected_keepsMode (e : DecodeError) (s : State) : KeepsMode s (execRejected e s) := by
  cases e with
  | invalidForm => exact keepsMode_fault
  | truncated | illegalClass | reservedClass => exact keepsMode_illegal

theorem step_keepsMode (s : State) : KeepsMode s (step s) := by
  unfold step
  refine .ite keepsMode_fault ?_
  split
  · exact keepsMode_takeException (.refl s)
  · exact keepsMode_fault
  · split
    · exact exec_keepsMode _ s
    · exact execRejected_keepsMode _ s

/-- Settles O8: an instruction's answer, a rejected word's and an exception of the fetch all keep the byte order and the parameters. -/
theorem stepKeepsModeAndParameters : Obligations.StepKeepsModeAndParameters := fun s => step_keepsMode s

/-! ### Absent facilities -/

/-- The check that a facility is present comes first: without it the Illegal Instruction exception is taken, whatever the
instruction would do. -/
theorem raises_illegal_of_absent {s : State} {present : Bool} {o : Out} (h : present = false) :
    raises (if !present then illegal s else o) (.illegalInstruction s.currentWord s.pc) s := by
  subst h
  rfl

/-- Settles O37: each of the instructions begins with the check of its facility. -/
theorem absentFacilitiesAreIllegal : Obligations.AbsentFacilitiesAreIllegal := by
  intro s a b c d fxm bf rc e
  refine ⟨fun ocrf => ⟨?mtocrf, ?mfocrf⟩, fun mcrxr => ?mcrxr, fun gp => ⟨?fsqrt, ?fsqrts⟩, fun gfx => ⟨?fres, ?frsqrte, ?fsel⟩⟩
  case mtocrf | mfocrf => exact raises_illegal_of_absent ocrf
  case mcrxr => exact raises_illegal_of_absent mcrxr
  case fsqrt | fsqrts => exact raises_illegal_of_absent gp
  case fres | frsqrte | fsel => exact raises_illegal_of_absent gfx

end Sys2Proof.Machine
end

section
/-! The invariant of the machine's states: reset meets it, every step keeps it. -/
namespace Sys2Proof.Machine

/-- Settles O7: no byte is listed, no bit is set, and the byte order is Big-Endian. -/
theorem resetMeetsTheInvariantInBigEndianOrder : Obligations.ResetMeetsTheInvariantInBigEndianOrder :=
  ⟨by decide, rfl, rfl⟩

/-! ### Branches -/

/-- A displacement field has 0b00 on its right (R170). -/
theorem wordAligned_branchOffset {w : Nat} (x : BitVec w) : wordAligned (branchOffset x) = branchOffset x := by
  apply BitVec.eq_of_getLsbD_eq
  intro i hi
  rw [wordAligned_getLsbD _ _ hi]
  by_cases h : 2 ≤ i
  · simp [h]
  · have low : i < w + 2 := by omega
    have zero : (branchOffset x).getLsbD i = false := by
      rw [branchOffset, sext64, BitVec.getLsbD_signExtend, if_pos low, BitVec.getLsbD_append, if_pos (by omega)]
      simp
    simp [zero]

section
variable {s : State}

theorem State.inv_aligned (hs : s.inv = true) : wordAligned s.pc = s.pc := by
  obtain ⟨-, -, aligned, -⟩ := s.inv_iff.mp hs
  exact aligned

theorem State.wordAligned_branchTarget {w : Nat} (x : BitVec w) (aa : Bool) (hs : s.inv = true) :
    wordAligned (s.branchTarget (branchOffset x) aa) = s.branchTarget (branchOffset x) aa := by
  unfold State.branchTarget
  split
  · exact wordAligned_branchOffset x
  · exact aligned_add _ _ (State.inv_aligned hs) (wordAligned_branchOffset x)

theorem State.inv_decremented (bo : BitVec 5) (hs : s.inv = true) : (s.decremented bo).inv = true := by
  unfold State.decremented
  split
  · exact hs
  · exact State.inv_setCtr _ hs

theorem State.inv_linkIf (lk : Bool) (hs : s.inv = true) : (s.linkIf lk).inv = true := by
  unfold State.linkIf
  split
  · exact State.inv_setLr _ hs
  · exact hs

/-- A branch to an aligned target keeps the invariant, taken or not. -/
theorem State.inv_branchIf (taken : Bool) {target : DWord} (ht : wordAligned target = target) (hs : s.inv = true) :
    (s.branchIf taken target).inv = true := by
  unfold State.branchIf
  split
  · exact State.inv_setPc target ht hs
  · exact State.inv_advance hs

/-! ### Answers that meet the invariant -/

/-- A next state, where the answer is one, meets the invariant. -/
def AnswersInv (o : Out) : Prop := ∀ t : State, o = .next t → t.inv = true

theorem answersInv_next (hs : s.inv = true) : AnswersInv (.next s) := by
  rintro _ ⟨⟩
  exact hs

theorem answersInv_advance (hs : s.inv = true) : AnswersInv (.next (advance s)) := answersInv_next (State.inv_advance hs)

theorem answersInv_takeException {e : Exception} (hs : s.inv = true) : AnswersInv (takeException e s) :=
  answersInv_next (State.inv_outcome _ hs)

theorem answersInv_fault {r : Fault} : AnswersInv (.fault r) := by rintro _ ⟨⟩

theorem answersInv_refused {r : Refusal} : AnswersInv (.refused r) := by rintro _ ⟨⟩

theorem answersInv_illegal (hs : s.inv = true) : AnswersInv (illegal s) := answersInv_takeException hs

theorem answersInv_privileged (hs : s.inv = true) : AnswersInv (privileged s) := answersInv_takeException hs

theorem AnswersInv.ite {c : Prop} [Decidable c] {o p : Out} (ho : AnswersInv o) (hp : AnswersInv p) :
    AnswersInv (if c then o else p) := by
  split
  · exact ho
  · exact hp

/-! ### The shared operations -/

theorem answersInv_branchConditional {bo : BitVec 5} {bi : BitNum} {target : DWord} {lk : Bool}
    (ht : wordAligned target = target) (hs : s.inv = true) : AnswersInv (branchConditional bo bi target lk s) :=
  answersInv_next (State.inv_branchIf _ ht (State.inv_linkIf _ (State.inv_decremented _ hs)))

theorem answersInv_guarded {e : Option Exception} {d : State} (hs : s.inv = true) (hd : d.inv = true) :
    AnswersInv (guarded e s d) := fun _ => guarded_inv hs hd

theorem answersInv_unlessLittleEndian {ea : DWord} {o : Out} (hs : s.inv = true) (ho : AnswersInv o) :
    AnswersInv (unlessLittleEndian ea s o) := .ite (answersInv_takeException hs) ho

theorem answersInv_loadString {rt : Reg} {ea : DWord} {n : Nat} (hs : s.inv = true) : AnswersInv (loadString rt ea n s) :=
  answersInv_guarded hs (State.inv_setGprs _ _ hs)

theorem answersInv_storeString {rs : Reg} {ea : DWord} {n : Nat} (hs : s.inv = true) : AnswersInv (storeString rs ea n s) :=
  answersInv_guarded hs (State.inv_storeValues _ _ _ hs)

theorem answersInv_trapOut {sel : BitVec 5} {a b : DWord} (hs : s.inv = true) : AnswersInv (trapOut sel a b s) :=
  .ite (answersInv_takeException hs) (answersInv_advance hs)

theorem answersInv_otherSpr {spr : BitVec 10} (hs : s.inv = true) : AnswersInv (otherSpr spr s) :=
  .ite (answersInv_privileged hs) (answersInv_illegal hs)

theorem answersInv_fpCommit {frt : Reg} {rc single : Bool} {o : FpOut} (hs : s.inv = true) :
    AnswersInv (fpCommit frt rc single o s) := fun _ => fpCommit_inv hs

/-- The bits that `UndefinedSingleResult` draws are no reserved bits (R650, R64). -/
theorem answersInv_undefinedSingle {frt : Reg} {rc : Bool} {bits : List Nat} (hb : ∀ b ∈ bits, b < 32 ∧ b ≠ 20 ∧ b ≠ 29)
    (hs : s.inv = true) : AnswersInv (undefinedSingle frt rc bits s) := fun _ => undefinedSingle_inv hb hs

theorem answersInv_arithDouble {op : ArithOp} {frt ra rb : Reg} {rc : Bool} (hs : s.inv = true) :
    AnswersInv (arithDouble op frt ra rb rc s) := .ite answersInv_refused (answersInv_fpCommit hs)

theorem answersInv_arithSingle {op : ArithOp} {frt ra rb : Reg} {rc : Bool} (hs : s.inv = true) :
    AnswersInv (arithSingle op frt ra rb rc s) :=
  .ite answersInv_refused
    (.ite (answersInv_fpCommit hs) (answersInv_undefinedSingle (by cases op <;> decide) hs))

theorem answersInv_mulAddDouble {sub neg : Bool} {frt ra rc' rb : Reg} {rc : Bool} (hs : s.inv = true) :
    AnswersInv (mulAddDouble sub neg frt ra rc' rb rc s) := .ite answersInv_refused (answersInv_fpCommit hs)

theorem answersInv_mulAddSingle {sub neg : Bool} {frt ra rc' rb : Reg} {rc : Bool} (hs : s.inv = true) :
    AnswersInv (mulAddSingle sub neg frt ra rc' rb rc s) :=
  .ite answersInv_refused (.ite (answersInv_fpCommit hs) (answersInv_undefinedSingle (by decide) hs))

theorem answersInv_convertOut {word towardZero : Bool} {frt frb : Reg} {rc : Bool} (hs : s.inv = true) :
    AnswersInv (convertOut word towardZero frt frb rc s) := .ite answersInv_refused (answersInv_fpCommit hs)

/-! ### Every instruction, and the step -/

/-- Every instruction keeps the invariant: the cases are the shared operations that the instructions end in. -/
theorem exec_answersInv (i : Instr) (hs : s.inv = true) : AnswersInv (exec i s) := by
  cases i with
  | b => exact answersInv_next (State.inv_branchIf _ (State.wordAligned_branchTarget _ _ hs) (State.inv_linkIf _ hs))
  | bc => exact answersInv_branchConditional (State.wordAligned_branchTarget _ _ hs) hs
  | bclr => exact answersInv_branchConditional (wordAligned_idem _) hs
  | bcctr => exact .ite answersInv_fault (answersInv_next (State.inv_branchIf _ (wordAligned_idem _) (State.inv_linkIf _ hs)))
  | sc => exact .ite (answersInv_takeException hs) answersInv_fault
  | crand | cror | crxor | crnand | crnor | creqv | crandc | crorc => exact answersInv_advance (State.inv_setCrBit _ _ hs)
  | mcrf => exact answersInv_advance (State.inv_setCrField _ _ hs)
  | lbz | lbzx | lhz | lhzx | lha | lhax | lwz | lwzx | lwa | lwax | ld | ldx | lhbrx | lwbrx => exact fun _ => loadGpr_inv hs
  | lbzu | lbzux | lhzu | lhzux | lhau | lhaux | lwzu | lwzux | lwaux | ldu | ldux => exact fun _ => loadGprUpdate_inv hs
  | stb | stbx | sth | sthx | stw | stwx | std | stdx | sthbrx | stwbrx => exact fun _ => storeScalar_inv hs
  | stbu | stbux | sthu | sthux | stwu | stwux | stdu | stdux => exact fun _ => storeScalarUpdate_inv hs
  | lmw =>
    exact answersInv_unlessLittleEndian hs (.ite answersInv_fault (answersInv_guarded hs (State.inv_setGprs _ _ hs)))
  | stmw => exact answersInv_unlessLittleEndian hs (answersInv_guarded hs (State.inv_storeValues _ _ _ hs))
  | lswi => exact answersInv_unlessLittleEndian hs (.ite answersInv_fault (answersInv_loadString hs))
  | lswx =>
    exact answersInv_unlessLittleEndian hs (.ite answersInv_fault
      (.ite (answersInv_advance (State.inv_drew _ (State.inv_setGpr _ _ hs))) (.ite answersInv_fault (answersInv_loadString hs))))
  | stswi | stswx => exact answersInv_unlessLittleEndian hs (answersInv_storeString hs)
  | addi | addis | mulli | mfcr => exact answersInv_advance (State.inv_setGpr _ _ hs)
  | add | subf | neg => exact fun _ => sumOut_inv hs
  | addic | addicRc | subfic | addc | subfc | adde | subfe | addme | subfme | addze | subfze => exact fun _ => carryingOut_inv hs
  | mulld | mullw | mulhd | mulhdu => exact answersInv_advance (State.inv_xoResult _ _ _ _ _ hs)
  | mulhw | mulhwu => exact fun _ => highWordOut_inv hs
  | divd | divdu => exact fun _ => divideDouble_inv hs
  | divw | divwu => exact fun _ => divideWord_inv hs
  | cmpi | cmp | cmpli | cmpl => exact fun _ => compareOut_inv hs
  | tdi | twi | td | tw => exact answersInv_trapOut hs
  | andiRc | andisRc | ori | oris | xori | xoris | and | or | xor | nand | nor | eqv | andc | orc | extsb | extsh | extsw
  | cntlzd | cntlzw => exact fun _ => logicalOut_inv hs
  | rldicl | rldicr | rldic | rlwinm | rldcl | rldcr | rlwnm | rldimi | rlwimi | sld | slw | srd | srw =>
    exact fun _ => rotateOut_inv hs
  | sradi | srawi | srad | sraw => exact fun _ => shiftAlgebraicOut_inv hs
  | mtspr =>
    exact .ite (answersInv_advance (State.inv_writeXer _ hs)) (.ite (answersInv_advance (State.inv_setLr _ hs))
      (.ite (answersInv_advance (State.inv_setCtr _ hs)) (answersInv_otherSpr hs)))
  | mfspr =>
    exact .ite (answersInv_advance (State.inv_setGpr _ _ hs)) (.ite (answersInv_advance (State.inv_setGpr _ _ hs))
      (.ite (answersInv_advance (State.inv_setGpr _ _ hs)) (answersInv_otherSpr hs)))
  | mtcrf => exact answersInv_advance (State.inv_setCr _ hs)
  | mtocrf =>
    exact .ite (answersInv_illegal hs) (.ite (answersInv_advance (State.inv_setCr _ hs))
      (answersInv_advance (State.inv_drew _ (State.inv_setCr _ hs))))
  | mfocrf => exact .ite (answersInv_illegal hs) (answersInv_advance (State.inv_drew _ (State.inv_setGpr _ _ hs)))
  | mcrxr => exact fun _ => execMcrxr_inv hs
  | lfs | lfsx | lfd | lfdx => exact fun _ => fpAccess_inv hs (State.inv_setFpr _ _ _ hs)
  | lfsu | lfsux | lfdu | lfdux => exact fun _ => fpAccessUpdate_inv hs (State.inv_setFpr _ _ _ hs)
  | stfs | stfsx => exact fun _ => fpAccess_inv hs (State.inv_storeSingle _ _ hs)
  | stfsu | stfsux => exact fun _ => fpAccessUpdate_inv hs (State.inv_storeSingle _ _ hs)
  | stfd | stfdx => exact fun _ => fpAccess_inv hs (State.inv_storeValue _ _ _ hs)
  | stfdu | stfdux => exact fun _ => fpAccessUpdate_inv hs (State.inv_storeValue _ _ _ hs)
  | stfiwx =>
    refine fun _ => fpAccess_inv hs ?_
    split
    · exact State.inv_drew _ (State.inv_storeValue _ _ _ hs)
    · exact State.inv_storeValue _ _ _ hs
  | fmr | fneg | fabs | fnabs => exact answersInv_advance (State.inv_setCr1If _ (State.inv_setFpr _ _ _ hs))
  | fadd | fsub | fmul | fdiv => exact answersInv_arithDouble hs
  | fadds | fsubs | fmuls | fdivs => exact answersInv_arithSingle hs
  | fmadd | fmsub | fnmadd | fnmsub => exact answersInv_mulAddDouble hs
  | fmadds | fmsubs | fnmadds | fnmsubs => exact answersInv_mulAddSingle hs
  | frsp | fcfid => exact .ite answersInv_refused (answersInv_fpCommit hs)
  | fctid | fctidz | fctiw | fctiwz => exact answersInv_convertOut hs
  | fcmpu | fcmpo => exact .ite answersInv_refused (fun _ => compareFinish_inv hs)
  | mffs => exact answersInv_advance (State.inv_setCr1If _ (State.inv_drew _ (State.inv_setFpr _ _ _ hs)))
  | mcrfs => exact fun _ => execMcrfs_inv hs
  | mtfsfi | mtfsf => exact fun _ => writeFpscrOut_inv hs
  | mtfsb0 => exact fun _ => execMtfsb0_inv hs
  | mtfsb1 => exact fun _ => execMtfsb1_inv hs
  | fsqrt | frsqrte => exact .ite (answersInv_illegal hs) (.ite answersInv_refused (answersInv_fpCommit hs))
  | fsqrts | fres =>
    exact .ite (answersInv_illegal hs) (.ite answersInv_refused
      (.ite (answersInv_fpCommit hs) (answersInv_undefinedSingle (by decide) hs)))
  | fsel => exact .ite (answersInv_illegal hs) (answersInv_advance (State.inv_setCr1If _ (State.inv_setFpr _ _ _ hs)))
  | isync | sync | eieio | dcbt | dcbtst => exact answersInv_advance hs
  | mfmsr | mfsr | mfsrin => exact answersInv_privileged hs
  | rfid | lwarx | dcbst | ldarx | dcbf | mtmsr | stwcxRc | mtmsrd | mtsr | stdcxRc | mtsrin | tlbie | eciwx | tlbia | mftb
  | slbmte | slbie | ecowx | slbia | tlbsync | slbmfev | slbmfee | icbi | dcbz => exact answersInv_refused

theorem execRejected_answersInv (e : DecodeError) (hs : s.inv = true) : AnswersInv (execRejected e s) := by
  cases e with
  | invalidForm => exact answersInv_fault
  | truncated | illegalClass | reservedClass => exact answersInv_illegal hs

theorem step_answersInv (hs : s.inv = true) : AnswersInv (step s) := by
  unfold step
  refine .ite answersInv_fault ?_
  split
  · exact answersInv_takeException hs
  · exact answersInv_fault
  · split
    · exact exec_answersInv _ hs
    · exact execRejected_answersInv _ hs

end

/-- Settles O6: an instruction's answer, a rejected word's and an exception of the fetch all keep the invariant. -/
theorem stepKeepsTheInvariant : Obligations.StepKeepsTheInvariant := fun _ t hs => step_answersInv hs t

end Sys2Proof.Machine
end

section
/-! The status registers: what the moves to and from XER, LR and CTR and the FPSCR instructions do to them, and how the elementary
operations and the compares deliver their result and status or invoke the handler. -/
namespace Sys2Proof.Machine

/-- Completion of an instruction that stores nothing. -/
theorem completesWith_registers {c : Changes} {s t : State} {P : State → Prop} (hb : c.bytes = []) (frame : Leaves c s t)
    (hp : t.pc = s.pc) (hP : P (advance t)) : completesWith (.next (advance t)) s c P :=
  completesWith_advance frame hp (by simp [hb]) hP

/-! ### XER and the special purpose registers (R64, R500 to R502) -/

theorem bitAt_xerDefined : ∀ p : Nat, p < 64 → bitAt xerDefined p = decide ((32 ≤ p ∧ p ≤ 34) ∨ 57 ≤ p) := by
  decide

theorem State.writeXer_eq (s : State) (v : DWord) :
    s.writeXer v = s.setXer (if s.params.reservedReads = .zero then v &&& xerDefined else v) := by
  unfold State.writeXer
  split <;> simp [*]

theorem State.readXer_eq (s : State) : s.readXer = if s.params.reservedReads = .zero then s.xer &&& xerDefined else s.xer := by
  unfold State.readXer
  split <;> simp [*]

/-- The defined bits of XER are read and written whatever becomes of the reserved ones. -/
theorem bitAt_definedXer {c : Prop} [Decidable c] (v : DWord) (p : Nat) (hp : p < 64) (hd : (32 ≤ p ∧ p ≤ 34) ∨ 57 ≤ p) :
    bitAt (if c then v &&& xerDefined else v) p = bitAt v p := by
  split
  · rw [bitAt_and, bitAt_xerDefined p hp, decide_eq_true hd, Bool.and_true]
  · rfl

/-- The bit spr0 is that of weight 16 (R500). -/
theorem spr0_eq (spr : BitVec 10) : spr.getLsbD 4 = decide (spr.toNat / 16 % 2 = 1) :=
  Nat.testBit_eq_decide_div_mod_eq

theorem otherSpr_raises_privileged {spr : BitVec 10} {s : State} (h : spr.toNat / 16 % 2 = 1) :
    raises (otherSpr spr s) (.privilegedInstruction s.currentWord s.pc) s := by
  unfold otherSpr
  rw [spr0_eq, decide_eq_true h]
  rfl

theorem otherSpr_raises_illegal {spr : BitVec 10} {s : State} (h : spr.toNat / 16 % 2 = 0) :
    raises (otherSpr spr s) (.illegalInstruction s.currentWord s.pc) s := by
  unfold otherSpr
  rw [spr0_eq, decide_eq_false (by omega)]
  rfl

theorem exec_mtspr_other {spr : BitVec 10} (r : Reg) (s : State) (h1 : spr ≠ 1) (h8 : spr ≠ 8) (h9 : spr ≠ 9) :
    exec (.mtspr spr r) s = otherSpr spr s := by
  show execMtspr spr r s = _
  rw [execMtspr, if_neg h1, if_neg h8, if_neg h9]

theorem exec_mfspr_other {spr : BitVec 10} (r : Reg) (s : State) (h1 : spr ≠ 1) (h8 : spr ≠ 8) (h9 : spr ≠ 9) :
    exec (.mfspr r spr) s = otherSpr spr s := by
  show execMfspr r spr s = _
  rw [execMfspr, if_neg h1, if_neg h8, if_neg h9]

theorem completesWith_setGpr (s : State) (r : Reg) (v : DWord) {P : State → Prop} (hP : P (advance (s.setGpr r v))) :
    completesWith (.next (advance (s.setGpr r v))) s { gprs := [r] } P :=
  completesWith_registers rfl ((Leaves.refl _ s).setGpr r v (List.mem_singleton.mpr rfl)) rfl hP

/-- Settles O35: a case for each register moved to or from, then the numbers that name none. -/
theorem moveSpecialRegisters : Obligations.MoveSpecialRegisters := by
  intro s r
  refine ⟨?toLr, ?toCtr, ?toXer, ?fromLr, ?fromCtr, ?fromXer, ?other⟩
  case toLr => exact completesWith_registers rfl ((Leaves.refl _ s).setLr _ rfl) rfl rfl
  case toCtr => exact completesWith_registers rfl ((Leaves.refl _ s).setCtr _ rfl) rfl rfl
  case toXer =>
    show completesWith (.next (advance (s.writeXer (s.readGpr r)))) s _ _
    rw [State.writeXer_eq]
    refine completesWith_registers rfl ((Leaves.refl _ s).setXer _ ?_) rfl ⟨fun p hp hd => bitAt_definedXer _ p hp hd, rfl⟩
    exact fun p hp hq => absurd (List.mem_range.mpr hp) hq
  case fromLr | fromCtr => exact completesWith_setGpr s r _ (State.readGpr_setGpr_self s r _)
  case fromXer =>
    have moved : (advance (s.setGpr r s.readXer)).readGpr r = s.readXer := State.readGpr_setGpr_self s r _
    refine completesWith_setGpr s r _ ?_
    rw [moved, State.readXer_eq]
    refine ⟨fun p hp hd => bitAt_definedXer _ p hp hd, fun zero p hp => ?_, fun last => ?_⟩
    · rw [if_pos zero, bitAt_and, bitAt_xerDefined p (by omega), decide_eq_false (by omega), Bool.and_false]
    · rw [if_neg (by rw [last]; decide)]
  case other =>
    intro spr h1 h8 h9
    rw [exec_mtspr_other r s h1 h8 h9, exec_mfspr_other r s h1 h8 h9]
    exact ⟨fun h => ⟨otherSpr_raises_privileged h, otherSpr_raises_privileged h⟩,
      fun h => ⟨otherSpr_raises_illegal h, otherSpr_raises_illegal h⟩⟩

/-! ### The FPSCR as it is read and written (R64, R68, R69, R695) -/

theorem State.bitAt_fpscrReserved (s : State) (p : Nat) (hp : p < 32) :
    bitAt s.fpscrReserved p = (decide (p = 20) || (decide (p = 29) && !s.params.hasNi)) := by
  unfold State.fpscrReserved
  revert p
  cases s.params.hasNi <;> decide

/-- Bit `p` of the FPSCR is one that a write keeps: no reserved bit, or reserved bits read as last written (R64). -/
def State.storesFpscrBit (s : State) (p : Nat) : Bool :=
  !(decide (s.params.reservedReads = .zero) && (decide (p = 20) || (decide (p = 29) && !s.params.hasNi)))

theorem State.storesFpscrBit_of_defined (s : State) {p : Nat} (h20 : p ≠ 20) (h29 : p ≠ 29) : s.storesFpscrBit p = true := by
  simp [State.storesFpscrBit, h20, h29]

/-- NI is stored where non-IEEE mode is implemented (R73). -/
theorem State.storesFpscrBit_ni (s : State) (h : s.params.hasNi = true) : s.storesFpscrBit 29 = true := by
  simp [State.storesFpscrBit, h]

theorem State.storesFpscrBit_of_reserved (s : State) {p : Nat} (hp : p ∈ [20, 29]) (h : p = 29 → s.params.hasNi = false) :
    s.storesFpscrBit p = decide (s.params.reservedReads = .lastWritten) := by
  have reserved : (decide (p = 20) || (decide (p = 29) && !s.params.hasNi)) = true := by
    simp only [List.mem_cons, List.not_mem_nil, or_false] at hp
    rcases hp with rfl | rfl
    · rfl
    · simp [h rfl]
  rw [State.storesFpscrBit, reserved, Bool.and_true]
  cases s.params.reservedReads <;> rfl

/-- Masking what reserved bits are not stored. -/
theorem State.bitAt_and_not_fpscrReserved (s : State) (v : Word) (p : Nat) (hp : p < 32) (hz : s.params.reservedReads = .zero) :
    bitAt (v &&& ~~~s.fpscrReserved) p = (bitAt v p && s.storesFpscrBit p) := by
  rw [bitAt_and, bitAt_not _ _ hp, s.bitAt_fpscrReserved p hp, State.storesFpscrBit, decide_eq_true hz, Bool.true_and]

theorem State.storesFpscrBit_of_lastWritten (s : State) (p : Nat) (h : s.params.reservedReads = .lastWritten) :
    s.storesFpscrBit p = true := by
  simp [State.storesFpscrBit, h]

theorem State.bitAt_readFpscr (s : State) (p : Nat) (hp : p < 32) :
    bitAt s.readFpscr p = (bitAt (summarized s.fpscr) p && s.storesFpscrBit p) := by
  unfold State.readFpscr
  split
  · next hz => exact s.bitAt_and_not_fpscrReserved _ p hp hz
  · next hl => rw [s.storesFpscrBit_of_lastWritten p hl, Bool.and_true]

theorem State.bitAt_writeFpscr (s : State) (v : Word) (p : Nat) (hp : p < 32) (h1 : p ≠ 1) (h2 : p ≠ 2) :
    bitAt (s.writeFpscr v).fpscr p = (bitAt v p && s.storesFpscrBit p) := by
  unfold State.writeFpscr
  split
  · next hz => rw [State.setFpscr_fpscr, bitAt_summarized _ _ hp, if_neg h1, if_neg h2, s.bitAt_and_not_fpscrReserved _ p hp hz]
  · next hl =>
    rw [State.setFpscr_fpscr, bitAt_summarized _ _ hp, if_neg h1, if_neg h2, s.storesFpscrBit_of_lastWritten p hl, Bool.and_true]

/-- A write of the FPSCR leaves FEX and VX the ORs. -/
theorem State.summarized_writeFpscr (s : State) (v : Word) : summarized (s.writeFpscr v).fpscr = (s.writeFpscr v).fpscr := by
  unfold State.writeFpscr
  split <;> exact summarized_idem _

/-- A write of the FPSCR changes nothing else. -/
theorem State.writeFpscr_eq (s : State) (v : Word) : s.writeFpscr v = s.setFpscr (s.writeFpscr v).fpscr := by
  unfold State.writeFpscr
  split <;> rfl

theorem summariesHold_of_summarized {f : Word} (h : summarized f = f) : summariesHold f := h ▸ summariesHold_summarized f

theorem State.summarized_of_inv {s : State} (hs : s.inv = true) : summarized s.fpscr = s.fpscr := by
  obtain ⟨-, -, -, -, summaries, -⟩ := s.inv_iff.mp hs
  exact summaries

/-- From a state that meets the invariant, writing a bit of the FPSCR back stores it as it is. -/
theorem State.bitAt_fpscr_stored {s : State} (hs : s.inv = true) (p : Nat) :
    (bitAt s.fpscr p && s.storesFpscrBit p) = bitAt s.fpscr p := by
  obtain ⟨-, -, -, -, -, clear⟩ := s.inv_iff.mp hs
  cases hz : s.params.reservedReads with
  | lastWritten => rw [s.storesFpscrBit_of_lastWritten p hz, Bool.and_true]
  | zero =>
    have none_held : s.fpscr &&& s.fpscrReserved = 0 := by
      simp only [State.reservedClear, hz, bne_self_eq_false, Bool.false_or, Bool.and_eq_true, beq_iff_eq] at clear
      exact clear.2
    obtain ⟨bit20, ni⟩ := (reserved_iff s s.fpscr).mp none_held
    by_cases h20 : p = 20
    · simp [h20, bit20]
    · by_cases h29 : p = 29
      · cases hn : s.params.hasNi with
        | true => rw [h29, s.storesFpscrBit_ni hn, Bool.and_true]
        | false => simp [h29, ni hn]
      · rw [s.storesFpscrBit_of_defined h20 h29, Bool.and_true]

theorem Leaves.writeFpscr {c : Changes} {s t : State} (h : Leaves c s t) (v : Word)
    (hv : ∀ p : Nat, p < 32 → p ∉ c.fpscr → bitAt (t.writeFpscr v).fpscr p = bitAt t.fpscr p) : Leaves c s (t.writeFpscr v) := by
  rw [State.writeFpscr_eq]
  exact h.setFpscr _ hv

/-! ### CR field 1 (R53) -/

section
variable (s : State) (rc : Bool)

@[simp] theorem State.setCr1If_pc : (s.setCr1If rc).pc = s.pc := by unfold State.setCr1If; split <;> rfl

@[simp] theorem State.setCr1If_fpscr : (s.setCr1If rc).fpscr = s.fpscr := by unfold State.setCr1If; split <;> rfl

@[simp] theorem State.setCr1If_readFpr (r : Reg) : (s.setCr1If rc).readFpr r = s.readFpr r := by
  unfold State.setCr1If; split <;> rfl

@[simp] theorem State.setCr1If_isSingle (r : Reg) : (s.setCr1If rc).isSingle r = s.isSingle r := by
  unfold State.setCr1If; split <;> rfl

/-- CR field 1 takes FX, FEX, VX and OX, of which none is a reserved bit. -/
theorem State.crField_setCr1If (h : rc = true) : (s.setCr1If rc).crField 1 = fld (summarized s.fpscr) 0 4 := by
  rw [State.setCr1If, if_pos h, State.crField_setCrField_self]
  apply eq_of_bitAt
  intro q hq
  rw [bitAt_fld _ _ _ _ (by omega) hq, bitAt_fld _ _ _ _ (by omega) hq, s.bitAt_readFpscr _ (by omega),
    s.storesFpscrBit_of_defined (by omega) (by omega), Bool.and_true]

theorem one_mem_fpRecordField (h : rc = true) : (1 : FieldNum) ∈ fpRecordField rc := by simp [fpRecordField, h]

end

/-! ### Completion or the handler (R565, R568) -/

/-- An instruction that ends in `FPFinish`: where it is `quiet` it completes, else the handler is invoked with the same effects, of
which `P` speaks. -/
def finishesWith (out : Out) (s : State) (c : Changes) (quiet : Prop) (P : State → Prop) : Prop :=
  (quiet → completesWith out s c P) ∧
  (¬ quiet → completes out (fun t => t.outcome = some (.fpEnabled s.pc) ∧ t.pc = s.pc ∧ P t ∧
    Leaves c s { t with outcome := s.outcome }))

theorem fpFinish_traps {rc caused : Bool} {s : State} (h : ¬ (caused = false ∨ s.params.fe = .ignore)) :
    fpFinish rc caused s = .next { s.setCr1If rc with outcome := some (.fpEnabled s.pc) } := by
  obtain ⟨hc, hf⟩ := not_or.mp h
  unfold fpFinish
  rw [if_pos (by simpa [hf] using hc)]
  rfl

/-- `FPFinish` after a chain of updates; `P` does not speak of the instruction address or of the outcome. -/
theorem finishesWith_fpFinish {c : Changes} {s u : State} {rc caused : Bool} {quiet : Prop} {P : State → Prop}
    (frame : Leaves c s u) (hpc : u.pc = s.pc) (hb : c.bytes = []) (hcr : rc = true → 1 ∈ c.cr)
    (hq : quiet ↔ caused = false ∨ s.params.fe = .ignore)
    (hP : ∀ (x : DWord) (e : Option Exception), P { u.setCr1If rc with pc := x, outcome := e }) :
    finishesWith (fpFinish rc caused u) s c quiet P := by
  have frame1 : Leaves c s (u.setCr1If rc) := frame.setCr1If rc hcr
  have hpc1 : (u.setCr1If rc).pc = s.pc := by rw [State.setCr1If_pc, hpc]
  obtain ⟨-, -, params⟩ := frame.mode
  rw [← params] at hq
  constructor
  · intro h
    rw [fpFinish_completes (hq.mp h)]
    exact completesWith_registers hb frame1 hpc1 (hP _ _)
  · intro h
    rw [fpFinish_traps (mt hq.mpr h), hpc]
    exact ⟨_, rfl, rfl, hpc1, hP _ _, { frame1 with outcome := rfl }⟩

/-! ### Elementary operations (R650 to R658) -/

section
variable (s : State) (frt : Reg) (single : Bool) (r : Option DWord)

@[simp] theorem State.deliverFpr_pc : (s.deliverFpr frt single r).pc = s.pc := by cases r <;> rfl

@[simp] theorem State.deliverFpr_fpscr : (s.deliverFpr frt single r).fpscr = s.fpscr := by cases r <;> rfl

end

/-- What `fpCommit` does before `FPFinish` is what the operation delivers. -/
theorem delivers_fpCommit (frt : Reg) (rc single : Bool) (o : FpOut) (s : State) : delivers frt rc single o s
    ((((s.setFpscr (fpscrAfter s.fpscr o)).deliverFpr frt single o.result).drew o.drawn).setCr1If rc) := by
  obtain ⟨fr, fi, fprf⟩ := fpscrAfter_status s.fpscr o
  refine ⟨fun v hv => ?_, fun hn => ?_, ?_, ?_, ?_, ?_, fun hrc => ?_⟩
  · simp [hv, State.deliverFpr]
  · simp [hn, State.deliverFpr]
  · simpa using recordsExceptions_fpscrAfter s.fpscr o
  · simpa using fr
  · simpa using fi
  · simpa using fprf
  · rw [State.crField_setCr1If _ _ hrc]
    simp [fpscrAfter, summarized_idem]

/-- Every instruction that ends in `fpCommit` delivers its operation. -/
theorem fpDelivers_fpCommit (frt : Reg) (rc single : Bool) (o : FpOut) (s : State) :
    fpDelivers (fpCommit frt rc single o s) frt rc single o s := by
  have frame : Leaves (fpChanges frt rc) s
      (((s.setFpscr (fpscrAfter s.fpscr o)).deliverFpr frt single o.result).drew o.drawn) :=
    (((Leaves.refl _ s).setFpscr _ (fpscrAfter_other s.fpscr o)).deliverFpr _ _ _ (List.mem_singleton.mpr rfl)).drew _
  exact finishesWith_fpFinish frame (by simp) rfl (one_mem_fpRecordField rc) (untrapped_iff o.occ s)
    (fun _ _ => delivers_fpCommit frt rc single o s)

/-- Settles O45: in IEEE mode each instruction commits its operation. -/
theorem doubleArithmetic : Obligations.DoubleArithmetic := by
  intro s f a b rc ieee o
  have delivered (op : ArithOp) : fpDelivers (arithDouble op f a b rc s) f rc false (o op) s := by
    rw [arithDouble, if_neg (by simp [ieee])]
    exact fpDelivers_fpCommit f rc false _ s
  exact ⟨delivered .add, delivered .sub, delivered .mul, delivered .div⟩

/-- Bits taken from a drawn value where a list names them, else kept. -/
theorem bitAt_drawnBits (f v : Word) (bits : List Nat) (hb : ∀ b ∈ bits, b < 32) (p : Nat) (hp : p < 32) :
    bitAt ((f &&& ~~~fpscrBits bits) ||| (v &&& fpscrBits bits)) p = if p ∈ bits then bitAt v p else bitAt f p := by
  have mask : bitAt (fpscrBits bits) p = decide (p ∈ bits) :=
    (bitAt_fpscrBits bits 0#32 p hp hb).trans (by rw [bitAt_zero, Bool.false_or])
  rw [bitAt_or, bitAt_and, bitAt_and, bitAt_not _ _ hp, mask]
  by_cases h : p ∈ bits <;> simp [h]

/-- FRT and the listed bits of the FPSCR drawn, with the summaries of the bits drawn: what `undefinedSingle` does before CR1. -/
def State.drawnSingle (s : State) (frt : Reg) (bits : List Nat) : State :=
  (s.setFpscr (summarized ((s.fpscr &&& ~~~fpscrBits bits) ||| (loWord (s.free 1) &&& fpscrBits bits)))).setFpr frt (s.free 0) true

theorem undefinedSingle_eq (frt : Reg) (rc : Bool) (bits : List Nat) (s : State) : undefinedSingle frt rc bits s =
    .next (advance ((if rc then (s.drawnSingle frt bits).setCrField 1 (fld (s.free 1) 0 4) else s.drawnSingle frt bits).drew 2)) :=
  rfl

theorem leaves_drawnSingle (frt : Reg) (rc : Bool) {bits : List Nat} (s : State) (hb : ∀ b ∈ bits, b < 32) :
    Leaves { fprs := [frt], cr := fpRecordField rc, fpscr := [1, 2] ++ bits } s (s.drawnSingle frt bits) := by
  refine ((Leaves.refl _ s).setFpscr _ (fun p hp hq => ?_)).setFpr _ _ _ (List.mem_singleton.mpr rfl)
  simp only [List.mem_append, List.mem_cons, List.not_mem_nil, or_false, not_or] at hq
  obtain ⟨⟨h1, h2⟩, hq⟩ := hq
  rw [bitAt_summarized _ _ hp, if_neg h1, if_neg h2, bitAt_drawnBits _ _ _ hb _ hp, if_neg hq]

/-- `UndefinedSingleResult` completes and changes FRT, the listed bits with the summaries and, with Rc, CR field 1 (R650). -/
theorem undefinedDelivers_undefinedSingle (frt : Reg) (rc : Bool) (bits : List Nat) (s : State) (hb : ∀ b ∈ bits, b < 32) :
    undefinedDelivers (undefinedSingle frt rc bits s) frt rc bits s := by
  have frame := leaves_drawnSingle frt rc s hb
  have drawn : (s.drawnSingle frt bits).isSingle frt = true ∧ summariesHold (s.drawnSingle frt bits).fpscr :=
    ⟨State.isSingle_setFpr_self _ _ _ _, summariesHold_summarized _⟩
  rw [undefinedSingle_eq]
  cases rc with
  | true => exact completesWith_registers rfl ((frame.setCrField 1 _ (one_mem_fpRecordField true rfl)).drew 2) rfl drawn
  | false => exact completesWith_registers rfl (frame.drew 2) rfl drawn

/-- Settles O46: operands that the single format represents go to the operation, others to the undefined result. -/
theorem singleArithmetic : Obligations.SingleArithmetic := by
  intro s f a b rc ieee x y o
  constructor
  · intro hx hy
    have delivered (op : ArithOp) : fpDelivers (arithSingle op f a b rc s) f rc true (o op) s := by
      rw [arithSingle, if_neg (by simp [ieee]), if_pos (by rw [hx, hy]; rfl)]
      exact fpDelivers_fpCommit f rc true _ s
    exact ⟨delivered .add, delivered .sub, delivered .mul, delivered .div⟩
  · intro outside
    have undefined (op : ArithOp) : undefinedDelivers (arithSingle op f a b rc s) f rc (arithBits ++ op.bits) s := by
      rw [arithSingle, if_neg (by simp [ieee]), if_neg (by rcases outside with h | h <;> simp [x, y, h])]
      exact undefinedDelivers_undefinedSingle f rc _ s (by cases op <;> decide)
    exact ⟨undefined .add, undefined .sub, undefined .mul, undefined .div⟩

/-! ### Compares (R689 to R691) -/

/-- The FPSCR after a compare: FPCC and the exceptions. -/
def comparedFpscr (f : Word) (cc : BitVec 4) (occ : List FpExc) : Word := setExc (setFld f 16 cc) occ

theorem bitAt_comparedFpscr (f : Word) (cc : BitVec 4) (occ : List FpExc) (p : Nat) (hp : p < 32) :
    bitAt (comparedFpscr f cc occ) p = if 16 ≤ p ∧ p < 20 then bitAt cc (p - 16) else bitAt (setExc f occ) p := by
  have field (q : Nat) (hq : q < 32) : bitAt (setFld f 16 cc) q = if 16 ≤ q ∧ q < 20 then bitAt cc (q - 16) else bitAt f q :=
    bitAt_setFld f 16 cc q (by omega) hq
  have unmoved (e : FpExc) : bitAt (setFld f 16 cc) e.bit = bitAt f e.bit := by
    rw [field _ (by cases e <;> decide), if_neg (by cases e <;> decide)]
  have not_cc (e : FpExc) : e.bit < 16 ∨ 20 ≤ e.bit := by cases e <;> decide
  unfold comparedFpscr
  split
  · next h => rw [bitAt_setExc_other _ _ _ hp (by omega) (fun e => by have := not_cc e; omega), field p hp, if_pos h]
  · next h =>
    simp only [bitAt_setExc _ _ _ hp, unmoved]
    rw [field p hp, if_neg h]

theorem recordsExceptions_compared (f : Word) (cc : BitVec 4) (occ : List FpExc) :
    recordsExceptions occ f (summarized (comparedFpscr f cc occ)) := by
  refine recordsExceptions_summarized (fun e => ?_) ?_
  · have place : e.bit < 32 ∧ e.bit ≠ 0 ∧ (e.bit < 16 ∨ 20 ≤ e.bit) := by cases e <;> decide
    obtain ⟨hlt, h0, hcc⟩ := place
    rw [bitAt_comparedFpscr _ _ _ _ hlt, if_neg (by omega), bitAt_setExc _ _ _ hlt, if_neg h0, any_bit_eq]
  · rw [bitAt_comparedFpscr _ _ _ _ (by omega), if_neg (by omega), bitAt_setExc _ _ _ (by omega), if_pos rfl]

theorem fld_compared (f : Word) (cc : BitVec 4) (occ : List FpExc) : fld (summarized (comparedFpscr f cc occ)) 16 4 = cc := by
  apply eq_of_bitAt
  intro q hq
  rw [bitAt_fld _ _ _ _ (by omega) hq, bitAt_summarized _ _ (by omega), if_neg (by omega), if_neg (by omega),
    bitAt_comparedFpscr _ _ _ _ (by omega), if_pos (by omega), Nat.add_sub_cancel_left]

/-- The FPSCR bits that a compare may change: FX, FEX, VX, VXSNAN, VXVC and FPCC. -/
def compareBits : List Nat := [0, 1, 2, 7, 12, 16, 17, 18, 19]

theorem compared_other (f : Word) (cc : BitVec 4) {occ : List FpExc} (hocc : ∀ e ∈ occ, e = .vxsnan ∨ e = .vxvc) (p : Nat)
    (hp : p < 32) (h : p ∉ compareBits) : bitAt (summarized (comparedFpscr f cc occ)) p = bitAt f p := by
  simp only [compareBits, List.mem_cons, List.not_mem_nil, or_false, not_or] at h
  obtain ⟨h0, h1, h2, snan, vc, hcc⟩ := h
  have unset : occ.any (fun e => e.bit == p) = false := by
    rw [List.any_eq_false]
    intro e he
    rcases hocc e he with rfl | rfl
    · simpa [FpExc.bit] using Ne.symm snan
    · simpa [FpExc.bit] using Ne.symm vc
  rw [bitAt_summarized _ _ hp, if_neg h1, if_neg h2, bitAt_comparedFpscr _ _ _ _ hp, if_neg (by omega), bitAt_setExc _ _ _ hp,
    if_neg h0, unset, Bool.or_false]

/-- Every compare writes its condition and its exceptions, and completes or invokes the handler. -/
theorem finishesWith_compareFinish (bf : FieldNum) (cc : BitVec 4) {occ : List FpExc} (s : State)
    (hocc : ∀ e ∈ occ, e = .vxsnan ∨ e = .vxvc) :
    finishesWith (compareFinish bf cc occ s) s { cr := [bf], fpscr := compareBits } (untrapped occ s) (fun t =>
      t.crField bf = cc ∧ fld t.fpscr 16 4 = cc ∧ recordsExceptions occ s.fpscr t.fpscr) := by
  have frame : Leaves { cr := [bf], fpscr := compareBits } s
      ((s.setFpscr (summarized (comparedFpscr s.fpscr cc occ))).setCrField bf cc) :=
    ((Leaves.refl _ s).setFpscr _ (compared_other s.fpscr cc hocc)).setCrField _ _ (List.mem_singleton.mpr rfl)
  exact finishesWith_fpFinish frame rfl rfl (by simp) (untrapped_iff occ s)
    (fun _ _ => ⟨State.crField_setCrField_self _ _ _, fld_compared _ _ _, recordsExceptions_compared _ _ _⟩)

theorem mem_unorderedInvalid {a b : DWord} {e : FpExc} (h : e ∈ unorderedInvalid a b) : e = .vxsnan := by
  unfold unorderedInvalid at h
  split at h
  · exact List.mem_singleton.mp h
  · cases h

theorem mem_orderedInvalid {f : Word} {a b : DWord} {e : FpExc} (h : e ∈ orderedInvalid f a b) : e = .vxsnan ∨ e = .vxvc := by
  unfold orderedInvalid at h
  split at h
  · split at h
    · exact .inl (List.mem_singleton.mp h)
    · simpa using h
  · split at h
    · exact .inr (List.mem_singleton.mp h)
    · cases h

/-- Settles O54: in IEEE mode both compares end in `compareFinish`, each with its own invalid operations. -/
theorem floatingPointCompares : Obligations.FloatingPointCompares := by
  intro s bf a b ieee x y written c both
  have unordered : exec (.fcmpu bf a b) s = compareFinish bf (fpCompare x y) (unorderedInvalid x y) s := if_neg (by simp [ieee])
  have ordered : exec (.fcmpo bf a b) s = compareFinish bf (fpCompare x y) (orderedInvalid s.fpscr x y) s :=
    if_neg (by simp [ieee])
  rw [unordered, ordered]
  exact ⟨finishesWith_compareFinish bf _ s (fun e he => .inl (mem_unorderedInvalid he)),
    finishesWith_compareFinish bf _ s (fun e he => mem_orderedInvalid he)⟩

/-! ### Reading and clearing the FPSCR (R696, R697, R700) -/

/-- The low-order word of a doubleword put together from two words. -/
theorem fld_append_low (hi lo : Word) : fld (hi ++ lo) 32 32 = lo := by
  apply BitVec.eq_of_getLsbD_eq
  intro i hi'
  rw [fld, BitVec.getLsbD_extractLsb', BitVec.getLsbD_append]
  simp [hi']

theorem completesWith_mffs (s : State) (f : Reg) (rc : Bool) :
    completesWith (exec (.mffs f rc) s) s { fprs := [f], cr := fpRecordField rc } (fun t =>
      fld (t.readFpr f) 32 32 = s.readFpscr ∧ t.isSingle f = false ∧ (rc = true → t.crField 1 = fld (summarized s.fpscr) 0 4)) := by
  refine completesWith_registers rfl ((((Leaves.refl _ s).setFpr f _ _ (List.mem_singleton.mpr rfl)).drew 1).setCr1If rc
    (one_mem_fpRecordField rc)) (by simp) ⟨?_, by simp, fun hrc => ?_⟩
  · simp [fld_append_low]
  · exact State.crField_setCr1If _ _ hrc

theorem completesWith_mcrfs (s : State) (bf bfa : FieldNum) :
    completesWith (exec (.mcrfs bf bfa) s) s { cr := [bf], fpscr := List.range 32 } (fun t =>
      t.crField bf = fld s.readFpscr (4 * bfa.toNat) 4 ∧ summariesHold t.fpscr ∧
        ∀ p : Nat, p < 32 → p ≠ 1 → p ≠ 2 → bitAt t.fpscr p =
          if p / 4 = bfa.toNat ∧ p ∈ [0, 3, 4, 5, 6, 7, 8, 9, 10, 11, 12, 21, 22, 23] then false else bitAt s.fpscr p) := by
  refine completesWith_registers rfl (((Leaves.refl _ s).setCrField bf _ (List.mem_singleton.mpr rfl)).setFpscr _ ?_) rfl
    ⟨State.crField_setCrField_self _ _ _, summariesHold_summarized _, fun p hp h1 h2 => ?_⟩
  · exact fun p hp hq => absurd (List.mem_range.mpr hp) hq
  · have cleared : (p = 0 ∨ p ∈ exceptionBits) = (p ∈ [0, 3, 4, 5, 6, 7, 8, 9, 10, 11, 12, 21, 22, 23]) :=
      propext List.mem_cons.symm
    show bitAt (summarized (clearField s.fpscr bfa)) p = _
    rw [bitAt_summarized _ _ hp, if_neg h1, if_neg h2, bitAt_clearField _ _ _ hp]
    simp only [cleared]

theorem summaryBit_iff (bt : BitNum) : summaryBit bt = true ↔ bt = 1 ∨ bt = 2 := by simp [summaryBit]

/-- The number of a bit that is neither FEX nor VX. -/
theorem toNat_of_not_summaryBit {bt : BitNum} (h : ¬ summaryBit bt = true) : bt.toNat ≠ 1 ∧ bt.toNat ≠ 2 := by
  obtain ⟨h1, h2⟩ := not_or.mp (mt (summaryBit_iff bt).mpr h)
  exact ⟨fun e => h1 (BitVec.eq_of_toNat_eq e), fun e => h2 (BitVec.eq_of_toNat_eq e)⟩

/-- From a state that meets the invariant, clearing a bit of the FPSCR changes no other bit but the summaries. -/
theorem bitAt_clearedFpscr {s : State} (hs : s.inv = true) (b : Nat) (hb : b < 32) (p : Nat) (hp : p < 32) (h1 : p ≠ 1)
    (h2 : p ≠ 2) : bitAt (s.writeFpscr (setBitAt s.fpscr b false)).fpscr p = if p = b then false else bitAt s.fpscr p := by
  rw [s.bitAt_writeFpscr _ _ hp h1 h2, bitAt_setBitAt _ _ _ _ hb hp]
  split
  · rfl
  · exact State.bitAt_fpscr_stored hs p

theorem completesWith_mtfsb0 {s : State} (hs : s.inv = true) (bt : BitNum) (rc : Bool) :
    completesWith (exec (.mtfsb0 bt rc) s) s { cr := fpRecordField rc, fpscr := [1, 2, bt.toNat] } (fun t =>
      (bt ≠ 1 → bt ≠ 2 → bitAt t.fpscr bt.toNat = false) ∧ summariesHold t.fpscr ∧
        (rc = true → t.crField 1 = fld t.fpscr 0 4)) := by
  have hlt := bt.isLt
  have recorded (u : State) (hu : summarized u.fpscr = u.fpscr) (hrc : rc = true) :
      (u.setCr1If rc).crField 1 = fld (u.setCr1If rc).fpscr 0 4 := by
    rw [State.crField_setCr1If _ _ hrc, State.setCr1If_fpscr, hu]
  show completesWith (execMtfsb0 bt rc s) s _ _
  unfold execMtfsb0
  split
  · next summary =>
    have hf := State.summarized_of_inv hs
    refine completesWith_registers rfl ((Leaves.refl _ s).setCr1If rc (one_mem_fpRecordField rc)) (by simp)
      ⟨fun h1 h2 => ?_, ?_, recorded s hf⟩
    · rcases (summaryBit_iff bt).mp summary with h | h
      · exact absurd h h1
      · exact absurd h h2
    · simpa using summariesHold_of_summarized hf
  · next other =>
    obtain ⟨h1, h2⟩ := toNat_of_not_summaryBit other
    have hf := s.summarized_writeFpscr (setBitAt s.fpscr bt.toNat false)
    have frame : Leaves { cr := fpRecordField rc, fpscr := [1, 2, bt.toNat] } s
        (s.writeFpscr (setBitAt s.fpscr bt.toNat false)) := by
      refine (Leaves.refl _ s).writeFpscr _ (fun p hp hq => ?_)
      simp only [List.mem_cons, List.not_mem_nil, or_false, not_or] at hq
      obtain ⟨p1, p2, pb⟩ := hq
      rw [bitAt_clearedFpscr hs _ hlt _ hp p1 p2, if_neg pb]
    refine completesWith_registers rfl (frame.setCr1If rc (one_mem_fpRecordField rc)) ?_ ⟨fun _ _ => ?_, ?_, recorded _ hf⟩
    · rw [State.setCr1If_pc, State.writeFpscr_eq, State.setFpscr_pc]
    · simpa using (bitAt_clearedFpscr hs _ hlt _ hlt h1 h2).trans (if_pos rfl)
    · simpa using summariesHold_of_summarized hf

/-- Settles O56: reading, moving and clearing, each by its own law. -/
theorem readAndClearStatus : Obligations.ReadAndClearStatus := fun s f bf bfa bt rc =>
  ⟨completesWith_mffs s f rc, completesWith_mcrfs s bf bfa, fun hs => completesWith_mtfsb0 hs bt rc⟩

/-! ### Writing the FPSCR (R695, R698, R699, R701) -/

/-- The FPSCR `g` that a write of `new` leaves: FEX and VX are the ORs, and of the other bits those that are stored are written. -/
def writtenFpscr (s : State) (new g : Word) : Prop :=
  summariesHold g ∧ ∀ p : Nat, p < 32 → p ≠ 1 → p ≠ 2 → bitAt g p = (bitAt new p && s.storesFpscrBit p)

theorem writtenFpscr_writeFpscr (s : State) (new : Word) : writtenFpscr s new (s.writeFpscr new).fpscr :=
  ⟨summariesHold_of_summarized (s.summarized_writeFpscr new), fun p hp h1 h2 => s.bitAt_writeFpscr new p hp h1 h2⟩

/-- The pairs of R695 are of bits that are stored: no exception bit or enable bit is reserved. -/
theorem exceptionPairs_stored (s : State) : ∀ p ∈ exceptionPairs, ∀ v : Word,
    bitAt (s.writeFpscr v).fpscr p.1 = bitAt v p.1 ∧ bitAt (s.writeFpscr v).fpscr p.2 = bitAt v p.2 := by
  have stored (q : Nat) (v : Word) (hq : q < 32 ∧ q ≠ 1 ∧ q ≠ 2 ∧ q ≠ 20 ∧ q ≠ 29) :
      bitAt (s.writeFpscr v).fpscr q = bitAt v q := by
    obtain ⟨hlt, h1, h2, h20, h29⟩ := hq
    rw [s.bitAt_writeFpscr v q hlt h1 h2, s.storesFpscrBit_of_defined h20 h29, Bool.and_true]
  have places : ∀ p ∈ exceptionPairs, (p.1 < 32 ∧ p.1 ≠ 1 ∧ p.1 ≠ 2 ∧ p.1 ≠ 20 ∧ p.1 ≠ 29) ∧
      (p.2 < 32 ∧ p.2 ≠ 1 ∧ p.2 ≠ 2 ∧ p.2 ≠ 20 ∧ p.2 ≠ 29) := by decide
  intro p hp v
  obtain ⟨exception, enable⟩ := places p hp
  exact ⟨stored p.1 v exception, stored p.2 v enable⟩

/-- A write of the FPSCR causes no enabled exception: no pair of R695 comes to be 1. -/
theorem movedCause_writeFpscr (s : State) (new : Word) : movedCause s.fpscr (s.writeFpscr new).fpscr = false ↔
    ∀ p ∈ exceptionPairs, bitAt new p.1 = true → bitAt new p.2 = true → bitAt s.fpscr p.1 = true ∧ bitAt s.fpscr p.2 = true := by
  unfold movedCause
  rw [List.any_eq_false]
  refine forall₂_congr (fun p hp => ?_)
  obtain ⟨exception, enable⟩ := exceptionPairs_stored s p hp new
  rw [exception, enable]
  simp only [Bool.and_eq_true, Bool.not_eq_true', not_and, Bool.not_eq_false, and_imp]

/-- A write of `new` causes no enabled exception, or exceptions are ignored (R695, R565). -/
def quietWrite (s : State) (new : Word) : Prop :=
  s.params.fe = .ignore ∨ ∀ p ∈ exceptionPairs, bitAt new p.1 = true → bitAt new p.2 = true →
    bitAt s.fpscr p.1 = true ∧ bitAt s.fpscr p.2 = true

theorem finishesWith_writeFpscrOut (s : State) (new : Word) (rc : Bool) :
    finishesWith (writeFpscrOut new rc s) s { cr := fpRecordField rc, fpscr := List.range 32 } (quietWrite s new) (fun t =>
      writtenFpscr s new t.fpscr ∧ (rc = true → t.crField 1 = fld t.fpscr 0 4)) := by
  have hpc : (s.writeFpscr new).pc = s.pc := by rw [State.writeFpscr_eq, State.setFpscr_pc]
  have written : writtenFpscr s new ((s.writeFpscr new).setCr1If rc).fpscr ∧
      (rc = true → ((s.writeFpscr new).setCr1If rc).crField 1 = fld ((s.writeFpscr new).setCr1If rc).fpscr 0 4) := by
    rw [State.setCr1If_fpscr]
    refine ⟨writtenFpscr_writeFpscr s new, fun hrc => ?_⟩
    rw [State.crField_setCr1If _ _ hrc, s.summarized_writeFpscr]
  refine finishesWith_fpFinish ((Leaves.refl _ s).writeFpscr new ?_) hpc rfl (one_mem_fpRecordField rc) ?_ (fun _ _ => written)
  · exact fun p hp hq => absurd (List.mem_range.mpr hp) hq
  · rw [movedCause_writeFpscr, quietWrite, or_comm]

/-- What `P` implies of a state holds of the next state too. -/
theorem finishesWith.imp {out : Out} {s : State} {c : Changes} {quiet : Prop} {P Q : State → Prop} (hPQ : ∀ t, P t → Q t)
    (h : finishesWith out s c quiet P) : finishesWith out s c quiet Q := by
  obtain ⟨completed, trapped⟩ := h
  refine ⟨fun hq => ?_, fun hq => ?_⟩
  · obtain ⟨t, out_eq, hpc, frame, stored, hP⟩ := completed hq
    exact ⟨t, out_eq, hpc, frame, stored, hPQ t hP⟩
  · obtain ⟨t, out_eq, houtcome, hpc, hP, frame⟩ := trapped hq
    exact ⟨t, out_eq, houtcome, hpc, hPQ t hP, frame⟩

theorem writtenFpscr.summaries {s : State} {new g : Word} (h : writtenFpscr s new g) : summariesHold g := by
  obtain ⟨summaries, -⟩ := h
  exact summaries

/-- The stored bits of the FPSCR spelt out: NI where it is implemented, bits 20 and 29 as reserved bits else (R64, R73). -/
theorem writtenFpscr.bits {s : State} {new g : Word} (h : writtenFpscr s new g) :
    (∀ p : Nat, p < 32 → p ≠ 1 → p ≠ 2 → p ≠ 20 → p ≠ 29 → bitAt g p = bitAt new p) ∧
      (s.params.hasNi = true → bitAt g 29 = bitAt new 29) ∧
      ∀ p ∈ [20, 29], (p = 29 → s.params.hasNi = false) →
        bitAt g p = (bitAt new p && decide (s.params.reservedReads = .lastWritten)) := by
  obtain ⟨-, bits⟩ := h
  refine ⟨fun p hp h1 h2 h20 h29 => ?_, fun ni => ?_, fun p hp absent => ?_⟩
  · rw [bits p hp h1 h2, s.storesFpscrBit_of_defined h20 h29, Bool.and_true]
  · rw [bits 29 (by omega) (by omega) (by omega), s.storesFpscrBit_ni ni, Bool.and_true]
  · have place : p = 20 ∨ p = 29 := by simpa using hp
    rw [bits p (by omega) (by omega) (by omega), s.storesFpscrBit_of_reserved hp absent]

theorem bitAt_foldl_fields (fxm : BitVec 8) (is : List Nat) (m : Word) (p : Nat) (hp : p < 32) (hi : ∀ i ∈ is, i < 8) :
    bitAt (is.foldl (fun m i => if bitAt fxm i then m ||| ones 32 (4 * i) 4 else m) m) p =
      (bitAt m p || (decide (p / 4 ∈ is) && bitAt fxm (p / 4))) := by
  induction is generalizing m with
  | nil => simp
  | cons i is ih =>
    have hi8 : i < 8 := hi i (by simp)
    have one : bitAt (if bitAt fxm i then m ||| ones 32 (4 * i) 4 else m) p =
        (bitAt m p || (decide (p / 4 = i) && bitAt fxm i)) := by
      have field : (4 * i ≤ p ∧ p < 4 * i + 4) ↔ p / 4 = i := by omega
      split
      · next h => rw [bitAt_or, bitAt_ones _ _ _ _ (by omega) hp, h, decide_eq_decide.mpr field, Bool.and_true]
      · next h => simp [h]
    rw [List.foldl_cons, ih _ (fun j hj => hi j (by simp [hj])), one]
    by_cases h : p / 4 = i
    · subst h
      cases bitAt m p <;> cases bitAt fxm (p / 4) <;> simp
    · simp [h]

/-- A field mask selects bit `p` by the bit of its field (R503, R699). -/
theorem bitAt_fieldMask (fxm : BitVec 8) (p : Nat) (hp : p < 32) : bitAt (fieldMask fxm) p = bitAt fxm (p / 4) :=
  (bitAt_foldl_fields fxm (List.range 8) 0#32 p hp (fun i hi => List.mem_range.mp hi)).trans (by
    rw [bitAt_zero, decide_eq_true (List.mem_range.mpr (by omega)), Bool.false_or, Bool.true_and])

theorem bitAt_replaceFields (old v : Word) (fxm : BitVec 8) (p : Nat) (hp : p < 32) :
    bitAt (replaceFields old v fxm) p = if bitAt fxm (p / 4) then bitAt v p else bitAt old p := by
  rw [replaceFields, bitAt_or, bitAt_and, bitAt_and, bitAt_not _ _ hp, bitAt_fieldMask _ _ hp]
  cases bitAt fxm (p / 4) <;> simp

theorem bitAt_loWord (x : DWord) (p : Nat) (hp : p < 32) : bitAt (loWord x) p = bitAt x (32 + p) := by
  rw [bitAt_eq_getLsbD _ _ hp, bitAt_eq_getLsbD _ _ (by omega), loWord, BitVec.getLsbD_setWidth]
  have place : 64 - 1 - (32 + p) = 32 - 1 - p := by omega
  rw [place, decide_eq_true (by omega), Bool.true_and]

/-- What `mtfsb1` writes: the bit, and FX when the bit is that of an exception and was 0 (R701, R67). -/
theorem exec_mtfsb1 {bt : BitNum} (rc : Bool) (s : State) (new : Word) (h : ¬ summaryBit bt = true)
    (hnew : ∀ p : Nat, p < 32 → bitAt new p = (bitAt s.fpscr p || decide (p = bt.toNat) ||
      (decide (p = 0) && exceptionBits.contains bt.toNat && !bitAt s.fpscr bt.toNat))) :
    exec (.mtfsb1 bt rc) s = writeFpscrOut new rc s := by
  have hlt := bt.isLt
  show execMtfsb1 bt rc s = _
  rw [execMtfsb1, if_neg h]
  refine congrArg (writeFpscrOut · rc s) (eq_of_bitAt _ _ (fun p hp => ?_))
  have bitSet : bitAt (setBitAt s.fpscr bt.toNat true) p = (bitAt s.fpscr p || decide (p = bt.toNat)) := by
    rw [bitAt_setBitAt _ _ _ _ hlt hp]
    split
    · next e => rw [decide_eq_true e, Bool.or_true]
    · next e => rw [decide_eq_false e, Bool.or_false]
  rw [hnew p hp, ← bitSet]
  split
  · next fx =>
    rw [bitAt_setBitAt _ _ _ _ (by omega) hp, Bool.and_assoc, fx, Bool.and_true]
    split
    · next e => rw [decide_eq_true e, Bool.or_true]
    · next e => rw [decide_eq_false e, Bool.or_false]
  · next fx => rw [Bool.and_assoc, eq_false_of_ne_true fx, Bool.and_false, Bool.or_false]

/-- Settles O57: each instruction writes the FPSCR as a whole, with the bits it does not select as they are. -/
theorem writeStatus : Obligations.WriteStatus := by
  intro s bf u flm b bt rc hs pairs quiet writes
  have wrote (new : Word) : writes (writeFpscrOut new rc s) new :=
    (finishesWith_writeFpscrOut s new rc).imp (fun _ ⟨written, recorded⟩ => ⟨written.summaries, recorded, written.bits⟩)
  refine ⟨wrote _, fun new hnew => ?mtfsf, fun new hnew h1 h2 => ?mtfsb1, fun summary => ?summary⟩
  case mtfsf =>
    have selected : replaceFields s.fpscr (loWord (s.readFpr b)) flm = new := by
      refine eq_of_bitAt _ _ (fun p hp => ?_)
      rw [hnew p hp, bitAt_replaceFields _ _ _ _ hp, bitAt_loWord _ _ hp]
    exact selected ▸ wrote _
  case mtfsb1 =>
    rw [exec_mtfsb1 rc s new (mt (summaryBit_iff bt).mp (not_or.mpr ⟨h1, h2⟩)) hnew]
    exact wrote new
  case summary =>
    have unchanged : exec (.mtfsb1 bt rc) s = .next (advance (s.setCr1If rc)) := if_pos ((summaryBit_iff bt).mpr summary)
    rw [unchanged]
    refine completesWith_registers rfl ((Leaves.refl _ s).setCr1If rc (one_mem_fpRecordField rc)) (by simp) (fun hrc => ?_)
    exact (State.crField_setCr1If s rc hrc).trans (by rw [State.summarized_of_inv hs])

/-! ### Non-IEEE mode (R73) -/

/-- Settles O58: each of the instructions begins with the check of the mode, after that of its facility. -/
theorem nonIeeeModeIsRefused : Obligations.NonIeeeModeIsRefused := by
  intro s f a b c bf rc implemented on
  have mode : s.nonIeee = true := by rw [State.nonIeee, implemented, on]; rfl
  have refused (present : Bool) (o : Out) (h : present = true) :
      (if !present then illegal s else if s.nonIeee then .refused .nonIeeeMode else o) = .refused .nonIeeeMode := by
    rw [if_neg (by simp [h]), if_pos mode]
  refine ⟨?computational, fun h => ⟨refused _ _ h, refused _ _ h⟩, fun h => ⟨refused _ _ h, refused _ _ h⟩⟩
  case computational =>
    intro i hi
    fin_cases hi
    all_goals exact if_pos mode

end Sys2Proof.Machine
end

section
/-! Storage: where the bytes of an operand lie and what of an address counts, which accesses raise an exception, and the
instructions of Books II and III. -/
namespace Sys2Proof.Machine

/-! ### The bytes of a scalar (R106, R115, R116) -/

/-- Exclusive-OR with a value below 8 works within a doubleword of storage. -/
theorem xor_of_lt_eight (x c : Nat) (hc : c < 8) : x ^^^ c = 8 * (x / 8) + (x % 8 ^^^ c) := by
  have high : (x ^^^ c) / 8 = x / 8 := by
    rw [Nat.xor_div_two_pow (n := 3), Nat.div_eq_of_lt hc, Nat.xor_zero]
  have low : (x ^^^ c) % 8 = x % 8 ^^^ c := by
    rw [Nat.xor_mod_two_pow (n := 3), Nat.mod_eq_of_lt hc]
  omega

/-- The two accounts of Little-Endian order agree on an aligned scalar at `r` within its doubleword. -/
theorem xor_seven_of_aligned : ∀ n ∈ [1, 2, 4, 8], ∀ r < 8, r % n = 0 → ∀ i < n,
    r + (n - 1 - i) < 8 ∧ (r + (n - 1 - i)) ^^^ 7 = (r ^^^ (8 - n)) + i := by
  decide

theorem State.sa_of_mode64 {s : State} (h : s.params.mode64 = true) (x : DWord) : s.sa x = x := if_pos h

theorem State.sa_toNat_of_mode32 {s : State} (h : s.params.mode64 = false) (x : DWord) : (s.sa x).toNat = x.toNat % 2 ^ 32 := by
  have low : s.sa x = zext64 (loWord x) := if_neg (by simp [h])
  rw [low, zext64, loWord, BitVec.toNat_setWidth, BitVec.toNat_setWidth, Nat.mod_eq_of_lt (b := 2 ^ 64) (by omega)]

/-- The storage address of an aligned operand is aligned, and its bytes follow without a wrap. -/
theorem State.sa_aligned_add (s : State) {ea : DWord} {n k : Nat} (hn : n ∈ [1, 2, 4, 8]) (aligned : ea.toNat % n = 0)
    (hk : k < n) : (s.sa ea).toNat % n = 0 ∧ (s.sa (ea + BitVec.ofNat 64 k)).toNat = (s.sa ea).toNat + k := by
  have width := ea.isLt
  have sum : (ea + BitVec.ofNat 64 k).toNat = (ea.toNat + k) % 2 ^ 64 := by simp
  have sizes : n = 1 ∨ n = 2 ∨ n = 4 ∨ n = 8 := by simpa using hn
  cases mode : s.params.mode64 with
  | true =>
    rw [State.sa_of_mode64 mode, State.sa_of_mode64 mode, sum]
    rcases sizes with rfl | rfl | rfl | rfl <;> omega
  | false =>
    rw [State.sa_toNat_of_mode32 mode, State.sa_toNat_of_mode32 mode, sum]
    rcases sizes with rfl | rfl | rfl | rfl <;> omega

theorem State.byteAddr_bigEndian {s : State} (h : s.littleEndian = false) (ea : DWord) (n i : Nat) :
    s.byteAddr ea n i = (s.sa (ea + BitVec.ofNat 64 i)).toNat := if_neg (by simp [h])

theorem State.byteAddr_littleEndian {s : State} (h : s.littleEndian = true) (ea : DWord) (n i : Nat) :
    s.byteAddr ea n i = (s.sa (ea + BitVec.ofNat 64 (n - 1 - i)) ^^^ 7#64).toNat := if_pos h

/-- In Little-Endian mode the bytes of an aligned scalar lie upward from its modified address (R115). -/
theorem State.byteAddr_littleEndian_aligned {s : State} (h : s.littleEndian = true) {ea : DWord} {n i : Nat} (hi : i < n)
    (hn : n ∈ [1, 2, 4, 8]) (aligned : ea.toNat % n = 0) :
    s.byteAddr ea n i = (s.sa ea ^^^ BitVec.ofNat 64 (8 - n)).toNat + i := by
  obtain ⟨start, sum⟩ := s.sa_aligned_add hn aligned (k := n - 1 - i) (by omega)
  have sizes : n = 1 ∨ n = 2 ∨ n = 4 ∨ n = 8 := by simpa using hn
  have within : (s.sa ea).toNat % 8 % n = 0 := by
    rcases sizes with rfl | rfl | rfl | rfl <;> omega
  obtain ⟨noCarry, agree⟩ := xor_seven_of_aligned n hn _ (Nat.mod_lt _ (by omega)) within i hi
  have offset : (BitVec.ofNat 64 (8 - n)).toNat = 8 - n := by
    rw [BitVec.toNat_ofNat, Nat.mod_eq_of_lt (by omega)]
  have place : ((s.sa ea).toNat + (n - 1 - i)) / 8 = (s.sa ea).toNat / 8 ∧
      ((s.sa ea).toNat + (n - 1 - i)) % 8 = (s.sa ea).toNat % 8 + (n - 1 - i) := by omega
  obtain ⟨doubleword, inside⟩ := place
  rw [State.byteAddr_littleEndian h, BitVec.toNat_xor, BitVec.toNat_xor, offset, sum,
    show (7#64).toNat = 7 from rfl, xor_of_lt_eight _ 7 (by omega), xor_of_lt_eight _ (8 - n) (by omega), doubleword, inside, agree,
    Nat.add_assoc]

/-- Settles O14: the third clause is the definition at significance `k`. -/
theorem bytesOfAScalar : Obligations.BytesOfAScalar := by
  intro s ea n i hi
  refine ⟨fun h => State.byteAddr_bigEndian h ea n i, fun h hn aligned => ?_, fun h k hk => ?_⟩
  · exact State.byteAddr_littleEndian_aligned h hi (by simpa using hn) aligned
  · have significance : n - 1 - i = k := by omega
    rw [State.byteAddr_littleEndian h, significance]

/-! ### Effective addresses (R101, R102, R104) -/

/-- A DS field with 0b00 on its right is four times the field. -/
theorem sext64_append_zeros (ds : BitVec 14) : sext64 (ds ++ 0#2) = BitVec.ofInt 64 (4 * ds.toInt) := by
  have value : (ds ++ 0#2).toInt = 4 * ds.toInt := by
    rw [BitVec.toInt_append]
    simp
  rw [sext64, BitVec.signExtend, value]

/-- In 32-bit mode effective addresses that agree in their low-order halves name the same storage at every
offset `d`. -/
theorem State.sa_add_of_loWord_eq {s : State} (h : s.params.mode64 = false) {x y : DWord} (low : loWord x = loWord y) (d : DWord) :
    s.sa (x + d) = s.sa (y + d) := by
  have sum (z : DWord) : loWord (z + d) = loWord z + loWord d := BitVec.setWidth_add z d (by omega)
  have word (z : DWord) : s.sa z = zext64 (loWord z) := if_neg (by simp [h])
  rw [word, word, sum, sum, low]

theorem State.byteAddr_of_loWord_eq {s : State} (h : s.params.mode64 = false) {x y : DWord} (low : loWord x = loWord y)
    (n i : Nat) : s.byteAddr x n i = s.byteAddr y n i := by
  unfold State.byteAddr
  rw [State.sa_add_of_loWord_eq h low, State.sa_add_of_loWord_eq h low]

/-- Settles O15: the sums are those of the definitions, DS counted in words; `sa` and `iea` are one function of the mode. -/
theorem highHalfOfAddressesIsIgnored : Obligations.HighHalfOfAddressesIsIgnored := by
  refine ⟨fun s ra rb d ds => ⟨rfl, rfl, ?ds, rfl⟩, fun s x => ⟨fun wide => ?wide, fun narrow => ?narrow⟩,
    fun s x y narrow low => ⟨?iea, State.byteAddr_of_loWord_eq narrow low⟩⟩
  case ds => exact congrArg (s.ra0 ra + ·) (sext64_append_zeros ds)
  case wide => exact ⟨State.sa_of_mode64 wide x, State.sa_of_mode64 wide x⟩
  case narrow => exact ⟨State.sa_toNat_of_mode32 narrow x, State.sa_toNat_of_mode32 narrow x⟩
  case iea => simpa [State.iea] using State.sa_add_of_loWord_eq narrow low 0

/-! ### Accesses that may not be made (R110, R121, R785, R792, R793) -/

theorem State.misaligned_iff (s : State) (ea : DWord) (n : Nat) :
    s.misaligned ea n = true ↔ s.params.unaligned = .fault ∧ ea.toNat % n ≠ 0 := by
  simp [State.misaligned, aligned]

theorem State.accessFault_alignment {s : State} (k : Access) {ea : DWord} {n : Nat} (demanded : s.params.unaligned = .fault)
    (lacking : ea.toNat % n ≠ 0) : s.accessFault k ea n = some (.alignment ea s.pc) :=
  if_pos ((s.misaligned_iff ea n).mpr ⟨demanded, lacking⟩)

theorem State.accessFault_dataStorage {s : State} {k : Access} {ea : DWord} {n : Nat}
    (aligned : s.params.unaligned = .fault → ea.toNat % n = 0)
    (denied : ∃ i : Nat, i < n ∧ s.available k (s.sa (ea + BitVec.ofNat 64 i)).toNat = false) :
    s.accessFault k ea n = some (.dataStorage ea (k == .store) s.pc) := by
  have mayBeThere : ¬ s.misaligned ea n = true := fun h => by
    obtain ⟨demanded, lacking⟩ := (s.misaligned_iff ea n).mp h
    exact lacking (aligned demanded)
  obtain ⟨i, hi, unavailable⟩ := denied
  have blocked : ¬ (s.checkedAddrs ea n).all (s.available k) = true := fun h => by
    have available := List.all_eq_true.mp h _ (State.mem_checkedAddrs.mpr ⟨i, hi, rfl⟩)
    simp [unavailable] at available
  rw [State.accessFault, if_neg mayBeThere, if_neg blocked]

/-- An instruction that raises whatever its access raises. -/
theorem accessTraps_of_raises {out : Out} {k : Access} {ea : DWord} {n : Nat} {s : State}
    (h : ∀ e, s.accessFault k ea n = some e → raises out e s) : accessTraps out k ea n s :=
  ⟨fun demanded lacking => h _ (State.accessFault_alignment k demanded lacking),
    fun aligned denied => h _ (State.accessFault_dataStorage aligned denied)⟩

section
variable {s d : State} {ea v : DWord} {n : Nat} {ra : Reg}

theorem badUpdate_eq_false (h : ra ≠ 0) : badUpdate ra = false := beq_eq_false_iff_ne.mpr h

theorem badLoadUpdate_eq_false {rt : Reg} (h0 : ra ≠ 0) (ht : ra ≠ rt) : badLoadUpdate rt ra = false :=
  Bool.or_eq_false_iff.mpr ⟨beq_eq_false_iff_ne.mpr h0, beq_eq_false_iff_ne.mpr ht⟩

theorem accessTraps_guarded {k : Access} : accessTraps (guarded (s.accessFault k ea n) s d) k ea n s :=
  accessTraps_of_raises (fun _ h => guarded_some h)

theorem accessTraps_loadGprUpdate {rt : Reg} {conv : DWord → DWord} (h : badLoadUpdate rt ra = false) :
    accessTraps (loadGprUpdate rt ra ea n conv s) .load ea n s := by
  rw [loadGprUpdate, if_neg (by simp [h])]
  exact accessTraps_guarded

theorem accessTraps_storeScalarUpdate (h : badUpdate ra = false) :
    accessTraps (storeScalarUpdate v ra ea n s) .store ea n s := by
  rw [storeScalarUpdate, if_neg (by simp [h])]
  exact accessTraps_guarded

theorem accessTraps_fpAccessUpdate {k : Access} (h : badUpdate ra = false) :
    accessTraps (fpAccessUpdate k ra ea n d s) k ea n s := by
  rw [fpAccessUpdate, if_neg (by simp [h])]
  exact accessTraps_guarded

end

/-! ### Multiples and strings: the first access that may not be made (R117, R320 to R333) -/

/-- The operands before the `j`-th, that operand, and some after it. -/
theorem consecutive_split (ea : DWord) (w : Nat) {j n : Nat} (hj : j < n) :
    ∃ later, consecutive ea w n = consecutive ea w j ++ (ea + BitVec.ofNat 64 (w * j)) :: later := by
  obtain ⟨m, rfl⟩ := Nat.exists_eq_add_of_lt hj
  rw [consecutive, Nat.add_assoc, List.range_add, List.range_succ_eq_map, List.map_append, List.map_cons, List.map_cons]
  exact ⟨_, rfl⟩

theorem State.firstFault_eq_some {s : State} {k : Access} {ea : DWord} {w j n : Nat} {e : Exception} (hj : j < n)
    (before : ∀ i : Nat, i < j → accessible k (ea + BitVec.ofNat 64 (w * i)) w s)
    (fault : s.accessFault k (ea + BitVec.ofNat 64 (w * j)) w = some e) : s.firstFault k w (consecutive ea w n) = some e := by
  obtain ⟨later, split⟩ := consecutive_split ea w hj
  refine List.findSome?_eq_some_iff.mpr ⟨_, _, later, split, fault, fun x hx => ?_⟩
  obtain ⟨i, hi, rfl⟩ := List.mem_map.mp hx
  exact accessFault_of_accessible (before i (List.mem_range.mp hi))

theorem firstTraps_guarded {s d : State} {k : Access} {ea : DWord} {w n : Nat} :
    firstTraps (guarded (s.firstFault k w (consecutive ea w n)) s d) k ea w n s :=
  fun _ hj before => accessTraps_of_raises (fun _ fault => guarded_some (State.firstFault_eq_some hj before fault))

theorem unlessLittleEndian_bigEndian {s : State} (h : s.littleEndian = false) (ea : DWord) (o : Out) :
    unlessLittleEndian ea s o = o := if_neg (by simp [h])

theorem raises_unlessLittleEndian {s : State} (h : s.littleEndian = true) (ea : DWord) (o : Out) :
    raises (unlessLittleEndian ea s o) (.alignment ea s.pc) s := if_pos h

/-- A register in a range is one of the range's registers: the one as many places on as it is above the first. -/
theorem inRange_eq_false {rt r : Reg} {nr : Nat} (h : ∀ k : Nat, k < nr → regAfter rt k ≠ r) : inRange rt nr r = false := by
  refine decide_eq_false (fun inside => h _ inside ?_)
  rw [regAfter, BitVec.ofNat_toNat, BitVec.setWidth_eq, BitVec.add_comm, BitVec.sub_add_cancel]

/-- The string count field of XER (R63). -/
theorem State.byteCount_eq (s : State) : s.byteCount = s.xer.toNat % 128 := by
  simp [State.byteCount, fld]

section
variable {s : State} (big : s.littleEndian = false) (r ra rb : Reg) (d : BitVec 16) (nb : BitVec 5)
include big

theorem firstTraps_lmw (h : ra.toNat < r.toNat) : firstTraps (exec (.lmw r d ra) s) .load (s.eaD ra d) 4 (32 - r.toNat) s := by
  have valid : badMultiple r ra = false := decide_eq_false (by rw [BitVec.le_def]; omega)
  show firstTraps (execLmw r d ra s) _ _ _ _ _
  rw [execLmw, unlessLittleEndian_bigEndian big, if_neg (by simp [valid])]
  exact firstTraps_guarded

theorem firstTraps_stmw : firstTraps (exec (.stmw r d ra) s) .store (s.eaD ra d) 4 (32 - r.toNat) s := by
  show firstTraps (execStmw r d ra s) _ _ _ _ _
  rw [execStmw, unlessLittleEndian_bigEndian big]
  exact firstTraps_guarded

theorem firstTraps_lswi (h : ∀ k : Nat, k < regsFor (nbCount nb) → regAfter r k ≠ ra) :
    firstTraps (exec (.lswi r ra nb) s) .load (s.ra0 ra) 1 (nbCount nb) s := by
  have valid : badStringImm r ra nb = false := inRange_eq_false h
  show firstTraps (execLswi r ra nb s) _ _ _ _ _
  rw [execLswi, unlessLittleEndian_bigEndian big, if_neg (by simp [valid])]
  exact firstTraps_guarded

theorem firstTraps_lswx (hra : r ≠ ra) (hrb : r ≠ rb)
    (h : ∀ k : Nat, k < regsFor s.byteCount → regAfter r k ≠ ra ∧ regAfter r k ≠ rb) :
    firstTraps (exec (.lswx r ra rb) s) .load (s.eaX ra rb) 1 s.byteCount s := by
  have valid : badStringIdx r ra rb = false := by simp [badStringIdx, hra, hrb]
  have apart : (inRange r (regsFor s.byteCount) ra || inRange r (regsFor s.byteCount) rb) = false := by
    rw [inRange_eq_false (fun k hk => (h k hk).left), inRange_eq_false (fun k hk => (h k hk).right), Bool.or_false]
  intro j hj
  have someByte : s.byteCount ≠ 0 := by omega
  show _ → accessTraps (execLswx r ra rb s) _ _ _ _
  rw [execLswx, unlessLittleEndian_bigEndian big, if_neg (by simp [valid]), if_neg someByte, if_neg (by simp [apart])]
  exact firstTraps_guarded j hj

theorem firstTraps_stswi : firstTraps (exec (.stswi r ra nb) s) .store (s.ra0 ra) 1 (nbCount nb) s := by
  show firstTraps (execStswi r ra nb s) _ _ _ _ _
  rw [execStswi, unlessLittleEndian_bigEndian big]
  exact firstTraps_guarded

theorem firstTraps_stswx : firstTraps (exec (.stswx r ra rb) s) .store (s.eaX ra rb) 1 s.byteCount s := by
  show firstTraps (execStswx r ra rb s) _ _ _ _ _
  rw [execStswx, unlessLittleEndian_bigEndian big]
  exact firstTraps_guarded

end

/-- Settles O20: every instruction is guarded by its access, or by the accesses of its operands in order. -/
theorem accessExceptions : Obligations.AccessExceptions := by
  intro s r ra rb d ds nb ed es ex n m traps
  have count : s.byteCount = m := s.byteCount_eq
  refine ⟨?loads, ?stores, fun h0 hr => ?loadsUpdate, fun h0 => ⟨?fpLoadsUpdate, ?storesUpdate⟩, fun big => ?inOrder,
    fun little => ?alignment⟩
  case loads | stores =>
    intro p hp
    fin_cases hp
    all_goals exact accessTraps_guarded
  case loadsUpdate =>
    intro p hp
    fin_cases hp
    all_goals exact accessTraps_loadGprUpdate (badLoadUpdate_eq_false h0 hr)
  case fpLoadsUpdate =>
    intro p hp
    fin_cases hp
    all_goals exact accessTraps_fpAccessUpdate (badUpdate_eq_false h0)
  case storesUpdate =>
    intro p hp
    fin_cases hp
    iterate 8 exact accessTraps_storeScalarUpdate (badUpdate_eq_false h0)
    all_goals exact accessTraps_fpAccessUpdate (badUpdate_eq_false h0)
  case inOrder =>
    rw [← count]
    exact ⟨firstTraps_lmw big r ra d, firstTraps_stmw big r ra d, firstTraps_lswi big r ra nb, firstTraps_lswx big r ra rb,
      firstTraps_stswi big r ra nb, firstTraps_stswx big r ra rb⟩
  case alignment =>
    have raised (ea : DWord) (o : Out) := raises_unlessLittleEndian little ea o
    exact ⟨raised _ _, raised _ _, raised _ _, raised _ _, raised _ _, raised _ _⟩

/-! ### Books II and III (R204, R794) -/

theorem raises_privileged (s : State) : raises (privileged s) (.privilegedInstruction s.currentWord s.pc) s := rfl

/-- Settles O60: each instruction's arm is the privileged exception, or the refusal under its name. -/
theorem otherBooksPrivilegedOrRefused : Obligations.OtherBooksPrivilegedOrRefused := by
  intro s
  refine ⟨fun i hi => ?privileged, fun p hp => ?refused⟩
  case privileged =>
    fin_cases hi
    all_goals exact raises_privileged s
  case refused =>
    fin_cases hp
    all_goals rfl

end Sys2Proof.Machine
end

section
/-! The encoding: every instruction's word is covered by a row of the table, whose decoder gives the instruction back. -/
namespace Sys2Proof.Laws

/-- Every instruction has its row: the laws of the single instructions, one for each constructor, in the constructors' order. -/
theorem RowOfEncoding.ofInstr (i : Instr) : RowOfEncoding.Statement i :=
  Instr.casesOn (motive := RowOfEncoding.Statement) i
    b bc bclr bcctr sc crand cror crxor crnand crnor creqv crandc crorc mcrf lbz lbzx lbzu lbzux lhz lhzx lhzu lhzux lha lhax
    lhau lhaux lwz lwzx lwzu lwzux lwa lwax lwaux ld ldx ldu ldux stb stbx stbu stbux sth sthx sthu sthux stw stwx stwu stwux
    std stdx stdu stdux lhbrx lwbrx sthbrx stwbrx lmw stmw lswi lswx stswi stswx addi addis add subf addic addicRc subfic addc
    subfc adde subfe addme subfme addze subfze neg mulli mulld mullw mulhd mulhw mulhdu mulhwu divd divw divdu divwu cmpi cmp
    cmpli cmpl tdi twi td tw andiRc andisRc ori oris xori xoris and or xor nand nor eqv andc orc extsb extsh extsw cntlzd
    cntlzw rldicl rldicr rldic rlwinm rldcl rldcr rlwnm rldimi rlwimi sld slw srd srw sradi srawi srad sraw mtspr mfspr mtcrf
    mfcr mtocrf mfocrf mcrxr lfs lfsx lfsu lfsux lfd lfdx lfdu lfdux stfs stfsx stfsu stfsux stfd stfdx stfdu stfdux stfiwx
    fmr fneg fabs fnabs fadd fadds fsub fsubs fmul fmuls fdiv fdivs fmadd fmadds fmsub fmsubs fnmadd fnmadds fnmsub fnmsubs
    frsp fctid fctidz fctiw fctiwz fcfid fcmpu fcmpo mffs mcrfs mtfsfi mtfsf mtfsb0 mtfsb1 fsqrt fsqrts fres frsqrte fsel rfid
    isync lwarx dcbst mfmsr ldarx dcbf mtmsr stwcxRc mtmsrd mtsr stdcxRc mtsrin dcbtst dcbt tlbie eciwx tlbia mftb slbmte
    slbie ecowx slbia tlbsync mfsr sync mfsrin slbmfev eieio slbmfee icbi dcbz

theorem decodeWord_encode (i : Instr) : decodeWord (encode i) = .ok i := by
  obtain ⟨r, mem, covers, build⟩ := RowOfEncoding.ofInstr i
  rw [decodeWord_of_row (encode i) r mem covers, build]

/-- Settles O1: the four bytes put together are the instruction's word, which its row decodes. -/
theorem decodeOfEncodeIsTheInstruction : Obligations.DecodeOfEncodeIsTheInstruction := by
  intro i rest
  rw [decode_bytesOfWord, decodeWord_encode]

end Sys2Proof.Laws
end

section
/-! The words that no row covers: which they are, and how they are rejected (R200 to R206, R208; log 33). -/
namespace Sys2Proof.Laws
open Machine

/-! ### Opcodes as rows: `covers` and `apart` look at the opcode bits alone, so that any instruction may stand for `build` -/

/-- The words with a primary opcode. -/
def primaryRow (op : Nat) : Row := ⟨0xFC000000#32, encD (BitVec.ofNat 6 op) 0#5 0#5 0#16, fun _ => .sync⟩

/-- The words with a primary and a 10-bit extended opcode. -/
def extendedRow (op xo : Nat) : Row :=
  ⟨0xFC0007FE#32, encX (BitVec.ofNat 6 op) 0#5 0#5 0#5 (BitVec.ofNat 10 xo) false, fun _ => .sync⟩

/-- The words with a primary and a 10-bit extended opcode and bit 31. -/
def recordRow (op xo : Nat) (rc : Bool) : Row :=
  ⟨0xFC0007FF#32, encX (BitVec.ofNat 6 op) 0#5 0#5 0#5 (BitVec.ofNat 10 xo) rc, fun _ => .sync⟩

theorem and_FC000000 (w : Word) : w &&& 0xFC000000#32 = encD (fld w 0 6) 0#5 0#5 0#16 := by
  apply BitVec.eq_of_getLsbD_eq
  intro i hi
  simp only [encD, fld, BitVec.getLsbD_and, BitVec.getLsbD_append, BitVec.getLsbD_extractLsb']
  interval_cases i <;> simp

theorem and_FC0007FF (w : Word) : w &&& 0xFC0007FF#32 = encX (fld w 0 6) 0#5 0#5 0#5 (fld w 21 10) (bitAt w 31) := by
  apply BitVec.eq_of_getLsbD_eq
  intro i hi
  simp only [encX, bit, bitAt, BitVec.getMsbD, fld, BitVec.getLsbD_and, BitVec.getLsbD_append, BitVec.getLsbD_extractLsb',
    BitVec.getLsbD_ofBool]
  interval_cases i <;> simp

theorem and_FC0007FE (w : Word) : w &&& 0xFC0007FE#32 = encX (fld w 0 6) 0#5 0#5 0#5 (fld w 21 10) false := by
  have within : 0xFC0007FE#32 = 0xFC0007FF#32 &&& 0xFC0007FE#32 := rfl
  rw [within, ← BitVec.and_assoc, and_FC0007FF, encX_and_FC0007FE]

theorem primaryRow_covers (w : Word) : (primaryRow (fld w 0 6).toNat).covers w = true := by
  simp [primaryRow, Row.covers, and_FC000000]

theorem extendedRow_covers (w : Word) : (extendedRow (fld w 0 6).toNat (fld w 21 10).toNat).covers w = true := by
  simp [extendedRow, Row.covers, and_FC0007FE]

theorem recordRow_covers (w : Word) : (recordRow (fld w 0 6).toNat (fld w 21 10).toNat (bitAt w 31)).covers w = true := by
  simp [recordRow, Row.covers, and_FC0007FF]

/-! ### Opcodes that no row has -/

/-- The primary opcodes that no row has: the reserved ones (R203, R206) and some of the illegal class (R202, R205). -/
def vacantPrimary : List Nat := [0, 1, 4, 5, 6, 9, 22, 56, 57, 60, 61]

/-- Opcodes that no row has: the primary ones, the reserved extended opcodes of 19 and 31 (R206), and the store conditionals with
bit 31 = 0. -/
def vacantOpcodes : List Row :=
  vacantPrimary.map primaryRow ++ [50, 82].map (extendedRow 19) ++ reserved31.map (extendedRow 31) ++
    [150, 214].map (recordRow 31 · false)

/-- Each of them differs from each row in a bit that both fix. -/
theorem vacantOpcodes_apart : ∀ v ∈ vacantOpcodes, ∀ r ∈ rows, v.apart r = true := by decide +kernel

/-- No row of the table covers the word. -/
def Uncovered (w : Word) : Prop := ∀ r ∈ rows, r.covers w = false

theorem uncovered_of_vacant {v : Row} {w : Word} (hv : v ∈ vacantOpcodes) (hw : v.covers w = true) : Uncovered w :=
  fun r hr => not_both_cover v r w (vacantOpcodes_apart v hv r hr) hw

theorem uncovered_of_primary {w : Word} {ops : List Nat} (h : (fld w 0 6).toNat ∈ ops) (vacant : ops ⊆ vacantPrimary) :
    Uncovered w :=
  uncovered_of_vacant
    (List.mem_append_left _ (List.mem_append_left _ (List.mem_append_left _ (List.mem_map_of_mem (vacant h)))))
    (primaryRow_covers w)

theorem uncovered_of_extended_19 {w : Word} (op : (fld w 0 6).toNat = 19) (h : (fld w 21 10).toNat ∈ [50, 82]) : Uncovered w :=
  uncovered_of_vacant (List.mem_append_left _ (List.mem_append_left _ (List.mem_append_right _ (List.mem_map_of_mem h))))
    (op ▸ extendedRow_covers w)

theorem uncovered_of_extended_31 {w : Word} (op : (fld w 0 6).toNat = 31) (h : (fld w 21 10).toNat ∈ reserved31) : Uncovered w :=
  uncovered_of_vacant (List.mem_append_left _ (List.mem_append_right _ (List.mem_map_of_mem h))) (op ▸ extendedRow_covers w)

theorem uncovered_of_record_31 {w : Word} (op : (fld w 0 6).toNat = 31) (h : (fld w 21 10).toNat ∈ [150, 214])
    (rc : bitAt w 31 = false) : Uncovered w :=
  uncovered_of_vacant (List.mem_append_right _ (List.mem_map_of_mem h)) (op ▸ rc ▸ recordRow_covers w)

/-! ### The classes of rejected words -/

/-- The word is of the reserved class (R203, R206). -/
def IsReserved (w : Word) : Prop :=
  let op := (fld w 0 6).toNat
  let xo := (fld w 21 10).toNat
  (op = 0 ∧ w ≠ 0) ∨ op ∈ [9, 22] ∨ (op = 19 ∧ xo ∈ [50, 82]) ∨ (op = 31 ∧ xo ∈ reserved31) ∨
    (op ∈ [56, 57, 60, 61] ∧ w.toNat % 4 = 0)

/-- The word has the opcodes of a store conditional (R204). -/
def HasStoreConditionalOpcode (w : Word) : Prop := (fld w 0 6).toNat = 31 ∧ (fld w 21 10).toNat ∈ [150, 214]

theorem fld_30_2_eq_zero (w : Word) : fld w 30 2 = 0#2 ↔ w.toNat % 4 = 0 := by
  rw [← BitVec.toNat_inj]
  simp [fld]

theorem reservedWord_iff (w : Word) : reservedWord w = true ↔ IsReserved w := by
  simp only [reservedWord, IsReserved, Bool.or_eq_true, Bool.and_eq_true, beq_iff_eq, bne_iff_ne, List.contains_iff_mem,
    fld_30_2_eq_zero, List.mem_cons, List.not_mem_nil, or_false, or_assoc, BitVec.ofNat_eq_ofNat]

theorem encX_fld_0_6 (op : BitVec 6) (a b c : BitVec 5) (xo : BitVec 10) (rc : Bool) : fld (encX op a b c xo rc) 0 6 = op := by
  apply BitVec.eq_of_getLsbD_eq
  intro i hi
  simp only [encX, fld, BitVec.getLsbD_append, BitVec.getLsbD_extractLsb']
  interval_cases i <;> simp

theorem encX_fld_21_10 (op : BitVec 6) (a b c : BitVec 5) (xo : BitVec 10) (rc : Bool) :
    fld (encX op a b c xo rc) 21 10 = xo := by
  apply BitVec.eq_of_getLsbD_eq
  intro i hi
  simp only [encX, fld, BitVec.getLsbD_append, BitVec.getLsbD_extractLsb']
  interval_cases i <;> simp

theorem and_FC0007FE_eq_iff (w : Word) (op : BitVec 6) (xo : BitVec 10) :
    w &&& 0xFC0007FE#32 = encX op 0#5 0#5 0#5 xo false ↔ fld w 0 6 = op ∧ fld w 21 10 = xo := by
  rw [and_FC0007FE]
  refine ⟨fun h => ⟨?primary, ?extended⟩, fun ⟨primary, extended⟩ => by rw [primary, extended]⟩
  case primary => simpa only [encX_fld_0_6] using congrArg (fld · 0 6) h
  case extended => simpa only [encX_fld_21_10] using congrArg (fld · 21 10) h

theorem storeConditionalWord_iff (w : Word) : storeConditionalWord w = true ↔ HasStoreConditionalOpcode w := by
  have stwcx : 0x7C00012C#32 = encX 31#6 0#5 0#5 0#5 150#10 false := rfl
  have stdcx : 0x7C0001AC#32 = encX 31#6 0#5 0#5 0#5 214#10 false := rfl
  rw [storeConditionalWord, List.contains_iff_mem, stwcx, stdcx]
  simp only [List.mem_cons, List.not_mem_nil, or_false, and_FC0007FE_eq_iff]
  simp [HasStoreConditionalOpcode, ← BitVec.toNat_inj, and_or_left]

theorem not_isReserved_of_storeConditional {w : Word} (h : HasStoreConditionalOpcode w) : ¬ IsReserved w := by
  obtain ⟨op, xo⟩ := h
  have kept : ∀ x ∈ [150, 214], x ∉ reserved31 := by decide
  simpa [IsReserved, op] using kept _ xo

theorem rejected_of_isReserved {w : Word} (h : IsReserved w) : rejected w = .reservedClass :=
  if_pos ((reservedWord_iff w).mpr h)

theorem rejected_of_storeConditional {w : Word} (h : HasStoreConditionalOpcode w) : rejected w = .invalidForm := by
  rw [rejected, if_neg (mt (reservedWord_iff w).mp (not_isReserved_of_storeConditional h)),
    if_pos ((storeConditionalWord_iff w).mpr h)]

theorem rejected_of_neither {w : Word} (reserved : ¬ IsReserved w) (form : ¬ HasStoreConditionalOpcode w) :
    rejected w = .illegalClass := by
  rw [rejected, if_neg (mt (reservedWord_iff w).mp reserved), if_neg (mt (storeConditionalWord_iff w).mp form)]

theorem decodeWord_of_uncovered {w : Word} (h : Uncovered w) : decodeWord w = .error (rejected w) := by
  have none : rows.find? (·.covers w) = none := List.find?_eq_none.mpr fun r hr => by simp [h r hr]
  rw [decodeWord, none]

/-- `stwcx.` and `stdcx.` have rows with bit 31 = 1, so that a word with their opcodes and no row has bit 31 = 0. -/
theorem bit_31_of_uncovered {w : Word} (h : Uncovered w) (form : HasStoreConditionalOpcode w) : bitAt w 31 = false := by
  obtain ⟨op, xo⟩ := form
  have stored : ∀ x ∈ [150, 214], ∃ r ∈ rowsOtherBooks,
      r.mask = (recordRow 31 x true).mask ∧ r.pat = (recordRow 31 x true).pat := by decide
  obtain ⟨r, hr, mask, pat⟩ := stored _ xo
  refine Bool.eq_false_iff.mpr fun rc => ?_
  have covers : r.covers w = true := by
    rw [Row.covers, mask, pat]
    exact op ▸ rc ▸ recordRow_covers w
  simp [h r (List.mem_append_right _ hr)] at covers

theorem decode_of_length_lt {bs : List Byte} (h : bs.length < 4) : decode bs = .error .truncated := by
  match bs, h with
  | [], _ | [_], _ | [_, _], _ | [_, _, _], _ => rfl

theorem uncovered_of_isReserved {w : Word} (h : IsReserved w) : Uncovered w := by
  rcases h with ⟨op, -⟩ | op | ⟨op, xo⟩ | ⟨op, xo⟩ | ⟨op, -⟩
  · exact uncovered_of_primary (List.mem_singleton.mpr op) (by decide)
  · exact uncovered_of_primary op (by decide)
  · exact uncovered_of_extended_19 op xo
  · exact uncovered_of_extended_31 op xo
  · exact uncovered_of_primary op (by decide)

/-- Settles O2: rows that differ in a bit that both fix cover no word both, and the opcodes of the other words are no row's. -/
theorem opcodeRowsDoNotOverlap : Obligations.OpcodeRowsDoNotOverlap := by
  refine ⟨rows_apart.imp fun apart w ⟨ha, hb⟩ => ?apart, fun w => ⟨decodeWord_of_row w,
    fun h => ⟨fun reserved => ?reserved, fun ⟨op, xo, _⟩ => ?form, fun reserved form => ?illegal⟩, ?uncovered⟩,
    fun _ => decode_of_length_lt⟩
  case apart => simp [not_both_cover _ _ w apart ha] at hb
  case reserved => rw [decodeWord_of_uncovered h, rejected_of_isReserved reserved]
  case form => rw [decodeWord_of_uncovered h, rejected_of_storeConditional ⟨op, xo⟩]
  case illegal =>
    rw [decodeWord_of_uncovered h, rejected_of_neither reserved fun opcode =>
      form ⟨opcode.left, opcode.right, bit_31_of_uncovered h opcode⟩]
  case uncovered =>
    rintro (reserved | ⟨op, xo, rc⟩ | rfl | op)
    · exact uncovered_of_isReserved reserved
    · exact uncovered_of_record_31 op xo rc
    · exact uncovered_of_primary (List.mem_singleton.mpr rfl) (by decide)
    · exact uncovered_of_primary op (by decide)

end Sys2Proof.Laws
end

section
/-! The step where no instruction runs: what a fetch finds, and what the step does with it. -/
namespace Sys2Proof.Machine

/-! ### What a fetch finds (R791, R130) -/

section
variable {s : State}

/-- The byte `iea(pc) + k` of the current instruction may be fetched. -/
def State.mayFetch (s : State) (k : Nat) : Bool := s.available .fetch (s.iea (wordAligned s.pc + BitVec.ofNat 64 k)).toNat

/-- A fetch asks for the four bytes from `iea(pc)` on. -/
theorem State.all_checkedAddrs_pc :
    (s.checkedAddrs (wordAligned s.pc) 4).all (s.available .fetch) = true ↔ ∀ k : Nat, k < 4 → s.mayFetch k = true := by
  simp [State.checkedAddrs, State.mayFetch, State.iea]

theorem State.fetch_eq_unavailable (h : ∃ k : Nat, k < 4 ∧ s.mayFetch k = false) : s.fetch = .unavailable := by
  obtain ⟨k, hk, denied⟩ := h
  refine if_pos (Bool.not_eq_true' _ ▸ Bool.eq_false_iff.mpr fun all => ?_)
  simp [State.all_checkedAddrs_pc.mp all k hk] at denied

theorem State.fetch_eq_modified (may : ∀ k : Nat, k < 4 → s.mayFetch k = true) (h : ∃ a ∈ s.fetchAddrs, a ∈ s.modified) :
    s.fetch = .modified := by
  have stored : s.fetchAddrs.any (s.modified.contains ·) = true := by simpa using h
  rw [State.fetch, State.all_checkedAddrs_pc.mpr may, stored]
  rfl

theorem State.fetch_eq_bytes (may : ∀ k : Nat, k < 4 → s.mayFetch k = true) (h : ∀ a ∈ s.fetchAddrs, a ∉ s.modified) :
    s.fetch = .bytes s.fetchBytes :=
  State.fetch_bytes.mpr ⟨List.all_eq_true.mp (State.all_checkedAddrs_pc.mpr may), h, rfl⟩

/-! ### What the step does with it (R785) -/

theorem step_of_outcome {e : Exception} (h : s.outcome = some e) : step s = .fault .handlerInControl := by
  rw [step, h]
  rfl

theorem step_of_unavailable (h : s.outcome = none) (fetched : s.fetch = .unavailable) :
    step s = takeException (.instructionStorage s.pc) s := by
  rw [step, h, fetched]
  rfl

theorem step_of_modified (h : s.outcome = none) (fetched : s.fetch = .modified) : step s = .fault .fetchModified := by
  rw [step, h, fetched]
  rfl

theorem step_of_rejected {bs : List Byte} {e : DecodeError} (h : s.outcome = none) (fetched : s.fetch = .bytes bs)
    (rejected : decode bs = .error e) : step s = execRejected e s := by
  simp only [step, h, fetched, rejected]
  rfl

theorem raises_execRejected {e : DecodeError} (h : e ≠ .invalidForm) :
    raises (execRejected e s) (.illegalInstruction s.currentWord s.pc) s := by
  cases e with
  | invalidForm => contradiction
  | truncated | illegalClass | reservedClass => rfl

end

/-- Settles O5: each clause is one thing that a fetch or the decoder may find. -/
theorem stepWhereNoInstructionRuns : Obligations.StepWhereNoInstructionRuns := by
  refine ⟨fun s h denied => ?unavailable, fun s e h may unmodified rejected => ?rejected, fun s e => step_of_outcome,
    fun s h may stored => ?modified⟩
  case unavailable =>
    rw [step_of_unavailable h (State.fetch_eq_unavailable denied)]
    rfl
  case rejected =>
    rw [step_of_rejected h (State.fetch_eq_bytes may unmodified) rejected]
    split
    · next form => rw [form]; rfl
    · next form => exact raises_execRejected form
  case modified => exact step_of_modified h (State.fetch_eq_modified may stored)

end Sys2Proof.Machine
end

section
/-! The invalid forms of loads and stores, which stop the model by name (R208, R262, R320, R330, R331, R620). -/
namespace Sys2Proof.Machine

section
variable {s d : State} {ra rt : Reg} {ea v : DWord} {n : Nat}

theorem badUpdate_eq_true (h : ra = 0) : badUpdate ra = true := beq_iff_eq.mpr h

theorem badLoadUpdate_eq_true (h : ra = 0 ∨ ra = rt) : badLoadUpdate rt ra = true := by
  simpa [badLoadUpdate] using h

theorem loadGprUpdate_invalidForm {conv : DWord → DWord} (h : ra = 0 ∨ ra = rt) :
    loadGprUpdate rt ra ea n conv s = .fault .invalidForm := if_pos (badLoadUpdate_eq_true h)

theorem storeScalarUpdate_invalidForm (h : ra = 0) : storeScalarUpdate v ra ea n s = .fault .invalidForm :=
  if_pos (badUpdate_eq_true h)

theorem fpAccessUpdate_invalidForm {k : Access} (h : ra = 0) : fpAccessUpdate k ra ea n d s = .fault .invalidForm :=
  if_pos (badUpdate_eq_true h)

end

/-- The registers of a range, which may be all 32 and may wrap, are in it. -/
theorem inRange_regAfter {nr k : Nat} (hk : k < nr) (rt : Reg) : inRange rt nr (regAfter rt k) = true := by
  have place : (regAfter rt k - rt).toNat = k % 32 := by
    rw [regAfter, BitVec.add_comm, BitVec.add_sub_cancel, BitVec.toNat_ofNat]
  exact decide_eq_true (place ▸ (Nat.mod_le k 32).trans_lt hk)

/-! ### Multiples and strings in Big-Endian mode -/

section
variable {s : State} (big : s.littleEndian = false) (r ra rb : Reg) (d : BitVec 16) (nb : BitVec 5)
include big

theorem exec_lmw_invalidForm (h : r.toNat ≤ ra.toNat) : exec (.lmw r d ra) s = .fault .invalidForm := by
  have bad : badMultiple r ra = true := decide_eq_true h
  show execLmw r d ra s = _
  rw [execLmw, unlessLittleEndian_bigEndian big, if_pos bad]

theorem exec_lswi_invalidForm (h : ∃ k : Nat, k < regsFor (nbCount nb) ∧ regAfter r k = ra) :
    exec (.lswi r ra nb) s = .fault .invalidForm := by
  obtain ⟨k, hk, rfl⟩ := h
  have bad : badStringImm r (regAfter r k) nb = true := inRange_regAfter hk r
  show execLswi r (regAfter r k) nb s = _
  rw [execLswi, unlessLittleEndian_bigEndian big, if_pos bad]

theorem exec_lswx_invalidForm (h : r = ra ∨ r = rb) : exec (.lswx r ra rb) s = .fault .invalidForm := by
  have bad : badStringIdx r ra rb = true := by simpa [badStringIdx] using h
  show execLswx r ra rb s = _
  rw [execLswx, unlessLittleEndian_bigEndian big, if_pos bad]

/-- A register after the first is loaded only if there are bytes, so that the count is not 0. -/
theorem exec_lswx_boundedlyUndefined (ha : r ≠ ra) (hb : r ≠ rb)
    (h : ∃ k : Nat, k < regsFor s.byteCount ∧ (regAfter r k = ra ∨ regAfter r k = rb)) :
    exec (.lswx r ra rb) s = .fault .boundedlyUndefined := by
  have form : ¬ badStringIdx r ra rb = true := by simp [badStringIdx, ha, hb]
  obtain ⟨k, hk, source⟩ := h
  have someByte : s.byteCount ≠ 0 := fun none => by simp [none, regsFor] at hk
  have loaded : (inRange r (regsFor s.byteCount) ra || inRange r (regsFor s.byteCount) rb) = true := by
    rcases source with rfl | rfl
    · rw [inRange_regAfter hk, Bool.true_or]
    · rw [inRange_regAfter hk, Bool.or_true]
  show execLswx r ra rb s = _
  rw [execLswx, unlessLittleEndian_bigEndian big, if_neg form, if_neg someByte, if_pos loaded]

end

/-- Settles O23: the check of the form comes before the access. -/
theorem invalidFormsStop : Obligations.InvalidFormsStop := by
  intro s r rt ra rb d ds nb
  refine ⟨fun h => ?loads, fun h => ?updates, fun big => ⟨exec_lmw_invalidForm big r ra d, exec_lswi_invalidForm big r ra nb,
    exec_lswx_invalidForm big r ra rb, fun ha hb h => ?later⟩⟩
  case loads =>
    have stops {ea : DWord} {n : Nat} {conv : DWord → DWord} : loadGprUpdate rt ra ea n conv s = .fault .invalidForm :=
      loadGprUpdate_invalidForm h
    exact ⟨stops, stops, stops, stops, stops, stops, stops, stops, stops, stops, stops⟩
  case updates =>
    have stores {v ea : DWord} {n : Nat} : storeScalarUpdate v ra ea n s = .fault .invalidForm := storeScalarUpdate_invalidForm h
    have fp {k : Access} {ea : DWord} {n : Nat} {d : State} : fpAccessUpdate k ra ea n d s = .fault .invalidForm :=
      fpAccessUpdate_invalidForm h
    exact ⟨stores, stores, stores, stores, stores, stores, stores, stores, fp, fp, fp, fp, fp, fp, fp, fp⟩
  case later =>
    rw [← s.byteCount_eq] at h
    exact exec_lswx_boundedlyUndefined big r ra rb ha hb h

end Sys2Proof.Machine
end

section
/-! Double patterns: the sign, exponent and fraction of a pattern, by which it is known, and its exact value. -/
namespace Sys2Proof.Machine

/-! ### The parts of a pattern (R530) -/

theorem signOf_eq (x : DWord) : signOf x = decide (2 ^ 63 ≤ x.toNat) := by
  rw [signOf, bitAt_eq_getLsbD _ _ (by omega), ← BitVec.msb_eq_getLsbD_last, BitVec.msb_eq_decide]

theorem expOf_eq (x : DWord) : expOf x = x.toNat / 2 ^ 52 % 2 ^ 11 := by
  simp [expOf, fld, BitVec.extractLsb'_toNat, Nat.shiftRight_eq_div_pow]

theorem fracOf_eq (x : DWord) : fracOf x = x.toNat % 2 ^ 52 := by
  simp [fracOf, fld, BitVec.extractLsb'_toNat]

theorem expOf_lt (x : DWord) : expOf x < 2 ^ 11 := BitVec.isLt _

theorem fracOf_lt (x : DWord) : fracOf x < 2 ^ 52 := BitVec.isLt _

/-- The number that a pattern is, from its parts. -/
theorem toNat_eq_parts (x : DWord) : x.toNat = (signOf x).toNat * 2 ^ 63 + expOf x * 2 ^ 52 + fracOf x := by
  have bound := x.isLt
  rw [signOf_eq, expOf_eq, fracOf_eq]
  by_cases negative : 2 ^ 63 ≤ x.toNat
  · rw [decide_eq_true negative, Bool.toNat_true]
    omega
  · rw [decide_eq_false negative, Bool.toNat_false]
    omega

/-- Patterns with the same parts are equal. -/
theorem eq_of_parts {x y : DWord} (sign : signOf x = signOf y) (exp : expOf x = expOf y) (frac : fracOf x = fracOf y) : x = y := by
  apply BitVec.eq_of_toNat_eq
  rw [toNat_eq_parts x, toNat_eq_parts y, sign, exp, frac]

/-- The bits below the sign are those of the exponent and the fraction. -/
theorem toNat_mod_sign (x : DWord) : x.toNat % 2 ^ 63 = expOf x * 2 ^ 52 + fracOf x := by
  have frac := fracOf_lt x
  have exp := expOf_lt x
  rw [toNat_eq_parts x]
  omega

@[simp] theorem signOf_withSign (neg : Bool) (x : DWord) : signOf (withSign neg x) = neg :=
  bitAt_setBitAt_self x 0 neg (by omega)

@[simp] theorem expOf_withSign (neg : Bool) (x : DWord) : expOf (withSign neg x) = expOf x :=
  congrArg BitVec.toNat (fld_setFld_other x 0 _ 1 11 (by omega) (by omega) (by omega))

@[simp] theorem fracOf_withSign (neg : Bool) (x : DWord) : fracOf (withSign neg x) = fracOf x :=
  congrArg BitVec.toNat (fld_setFld_other x 0 _ 12 52 (by omega) (by omega) (by omega))

/-- A pattern put together from its parts. -/
theorem toNat_append_parts (neg : Bool) (e : BitVec 11) (m : BitVec 52) :
    (bit neg ++ e ++ m : DWord).toNat = neg.toNat * 2 ^ 63 + e.toNat * 2 ^ 52 + m.toNat := by
  have sign : (bit neg).toNat = neg.toNat := by cases neg <;> rfl
  rw [BitVec.toNat_append, BitVec.toNat_append, ← Nat.shiftLeft_add_eq_or_of_lt m.isLt, ← Nat.shiftLeft_add_eq_or_of_lt e.isLt,
    Nat.shiftLeft_eq, Nat.shiftLeft_eq, sign]
  omega

/-- A pattern is that of its sign, exponent and fraction fields. -/
theorem append_parts (x : DWord) : (bit (signOf x) ++ BitVec.ofNat 11 (expOf x) ++ BitVec.ofNat 52 (fracOf x) : DWord) = x := by
  apply BitVec.eq_of_toNat_eq
  rw [toNat_append_parts, BitVec.toNat_ofNat, BitVec.toNat_ofNat, Nat.mod_eq_of_lt (expOf_lt x), Nat.mod_eq_of_lt (fracOf_lt x),
    ← toNat_eq_parts]

theorem isNaN_of_finite {x : DWord} (h : expOf x < 2047) : isNaN x = false := by simp [isNaN, h.ne]

theorem isInf_of_finite {x : DWord} (h : expOf x < 2047) : isInf x = false := by simp [isInf, h.ne]

/-! ### Encoding (R532) -/

theorem scaleNat_zero (n : Nat) : scaleNat n 0 = n := by simp [scaleNat]

theorem magOf_denormal {x : DWord} (h : expOf x = 0) : magOf x = ⟨fracOf x, -1074⟩ := if_pos h

theorem magOf_normal {x : DWord} (h : expOf x ≠ 0) : magOf x = ⟨2 ^ 52 + fracOf x, (expOf x : Int) - 1075⟩ := if_neg h

theorem magOf_exp_ge (x : DWord) : -1074 ≤ (magOf x).exp := by
  by_cases h : expOf x = 0
  · rw [magOf_denormal h]
  · rw [magOf_normal h]
    show (-1074 : Int) ≤ (expOf x : Int) - 1075
    omega

/-- A number below the normalized ones is its sign and its fraction. -/
theorem withSign_fraction {x : DWord} (h : expOf x = 0) : withSign (signOf x) (BitVec.ofNat 64 (fracOf x)) = x := by
  have frac := fracOf_lt x
  have small : (BitVec.ofNat 64 (fracOf x)).toNat = fracOf x := by
    rw [BitVec.toNat_ofNat]
    exact Nat.mod_eq_of_lt (by omega)
  refine eq_of_parts (signOf_withSign _ _) ?_ ?_
  · rw [expOf_withSign, expOf_eq, small, h]
    omega
  · rw [fracOf_withSign, fracOf_eq, small]
    omega

/-- Zeros, and numbers whose leading bit is below the place of `2^-1022`. -/
theorem encode64_denormal {x : DWord} (h : expOf x = 0) : encode64 (signOf x) (fracOf x) (-1074) = x := by
  have frac := fracOf_lt x
  unfold encode64
  split
  · next zero =>
    have same := withSign_fraction h
    rwa [zero] at same
  · next nonzero =>
    have place : (fracOf x).log2 < 52 := (Nat.log2_lt nonzero).mpr frac
    rw [if_neg (by omega), show (-1074 : Int) + 1074 = 0 from rfl, scaleNat_zero, withSign_fraction h]

/-- The hidden bit is the leading one, in place 52. -/
theorem log2_hidden {n : Nat} (h : n < 2 ^ 52) : (2 ^ 52 + n).log2 = 52 := (Nat.log2_eq_iff (by omega)).mpr (by omega)

theorem encode64_normal {x : DWord} (h : expOf x ≠ 0) : encode64 (signOf x) (2 ^ 52 + fracOf x) ((expOf x : Int) - 1075) = x := by
  have lead := log2_hidden (fracOf_lt x)
  have exponent : ((52 : Nat) : Int) + ((expOf x : Int) - 1075) + 1023 = (expOf x : Nat) := by omega
  have fraction : BitVec.ofNat 52 (2 ^ 52 + fracOf x) = BitVec.ofNat 52 (fracOf x) :=
    BitVec.eq_of_toNat_eq (by rw [BitVec.toNat_ofNat, BitVec.toNat_ofNat, Nat.add_mod_left])
  unfold encode64
  rw [if_neg (by omega), lead]
  simp only []
  rw [if_pos (by omega), exponent, Int.toNat_natCast, show (52 : Int) - (52 : Nat) = 0 from rfl, scaleNat_zero, fraction, append_parts]

/-- Settles O42: below the normalized numbers the fraction is the integer; of a normalized number the hidden bit leads. -/
theorem encodingOfExactValues : Obligations.EncodingOfExactValues := by
  intro x _
  by_cases h : expOf x = 0
  · rw [magOf_denormal h, encode64_denormal h]
  · rw [magOf_normal h, encode64_normal h]

/-! ### Exact values in the order of the patterns (R532, R535) -/

/-- A number with the sign of a pattern. -/
def signed (neg : Bool) (n : Nat) : Int := if neg then -(n : Int) else n

@[simp] theorem natAbs_signed (neg : Bool) (n : Nat) : (signed neg n).natAbs = n := by cases neg <;> simp [signed]

theorem signed_mul_eq_iff (neg : Bool) (m n u : Nat) : signed neg m * u = signed neg n ↔ m * u = n := by
  cases neg <;> simp only [signed, if_true, if_false, Bool.false_eq_true, Int.neg_mul, Int.neg_inj] <;> norm_cast

/-- The magnitude of a pattern's exact value, in units of `2^-1074`. -/
def scaledAbs (x : DWord) : Nat := (magOf x).man * 2 ^ ((magOf x).exp + 1074).toNat

theorem scaledValue_eq_signed (x : DWord) : scaledValue x = signed (signOf x) (scaledAbs x) := rfl

theorem orderKey_eq_signed (x : DWord) : orderKey x = signed (signOf x) (x.toNat % 2 ^ 63) := rfl

/-- The magnitude, in units of `2^-1074`, of the pattern that `n` is without its sign. -/
def scaledMagnitude (n : Nat) : Nat := if n / 2 ^ 52 = 0 then n % 2 ^ 52 else (2 ^ 52 + n % 2 ^ 52) * 2 ^ (n / 2 ^ 52 - 1)

theorem scaledAbs_eq_scaledMagnitude (x : DWord) : scaledAbs x = scaledMagnitude (x.toNat % 2 ^ 63) := by
  have frac := fracOf_lt x
  have exponent : (expOf x * 2 ^ 52 + fracOf x) / 2 ^ 52 = expOf x := by omega
  have fraction : (expOf x * 2 ^ 52 + fracOf x) % 2 ^ 52 = fracOf x := by omega
  rw [toNat_mod_sign, scaledMagnitude, scaledAbs, exponent, fraction]
  by_cases h : expOf x = 0
  · rw [magOf_denormal h, if_pos h]
    exact Nat.mul_one _
  · rw [magOf_normal h, if_neg h, show ((expOf x : Int) - 1075 + 1074).toNat = expOf x - 1 by omega]

/-- The next pattern has the next fraction, or the next exponent and the fraction 0. -/
theorem scaledMagnitude_lt_succ (n : Nat) : scaledMagnitude n < scaledMagnitude (n + 1) := by
  unfold scaledMagnitude
  by_cases carry : (n + 1) % 2 ^ 52 = 0
  · rw [show (n + 1) / 2 ^ 52 = n / 2 ^ 52 + 1 by omega, carry, if_neg (Nat.succ_ne_zero _), Nat.add_sub_cancel]
    split
    · next denormal =>
      rw [denormal]
      omega
    · next normal =>
      have next_exponent : (2 ^ 52 + 0) * 2 ^ (n / 2 ^ 52) = 2 ^ 53 * 2 ^ (n / 2 ^ 52 - 1) := by
        rw [Nat.add_zero, ← Nat.pow_add, ← Nat.pow_add]
        congr 1
        omega
      rw [next_exponent]
      exact Nat.mul_lt_mul_of_pos_right (by omega) (Nat.two_pow_pos _)
  · rw [show (n + 1) / 2 ^ 52 = n / 2 ^ 52 by omega]
    split
    · omega
    · exact Nat.mul_lt_mul_of_pos_right (by omega) (Nat.two_pow_pos _)

theorem scaledMagnitude_strictMono : StrictMono scaledMagnitude := strictMono_nat_of_lt_succ scaledMagnitude_lt_succ

/-- A strictly rising function of magnitudes that keeps 0 is one of signed numbers. -/
theorem signed_lt_iff {g : Nat → Nat} (mono : StrictMono g) (zero : g 0 = 0) (p q : Bool) (m n : Nat) :
    signed p (g m) < signed q (g n) ↔ signed p m < signed q n := by
  have rising := mono.lt_iff_lt (a := m) (b := n)
  have falling := mono.lt_iff_lt (a := n) (b := m)
  have positive (k : Nat) : 0 < g k ↔ 0 < k := by rw [← mono.lt_iff_lt (a := 0) (b := k), zero]
  have hm := positive m
  have hn := positive n
  cases p <;> cases q <;> simp only [signed, if_true, if_false, Bool.false_eq_true] <;> omega

/-- The order of patterns is that of their exact values. -/
theorem orderKey_lt_iff (a b : DWord) : orderKey a < orderKey b ↔ scaledValue a < scaledValue b := by
  rw [orderKey_eq_signed, orderKey_eq_signed, scaledValue_eq_signed, scaledValue_eq_signed, scaledAbs_eq_scaledMagnitude,
    scaledAbs_eq_scaledMagnitude, signed_lt_iff scaledMagnitude_strictMono rfl]

theorem fpCompare_unordered {a b : DWord} (h : isNaN a = true ∨ isNaN b = true) : fpCompare a b = 0b0001#4 :=
  if_pos (by simpa using h)

theorem fpCompare_ordered {a b : DWord} (ha : isNaN a = false) (hb : isNaN b = false) : fpCompare a b =
    if scaledValue a < scaledValue b then 0b1000#4 else if scaledValue b < scaledValue a then 0b0100#4 else 0b0010#4 := by
  simp only [fpCompare, ha, hb, orderKey_lt_iff, Bool.or_self, Bool.false_eq_true, if_false]

/-- Settles O55: the comparison is that of the patterns' places, which are in the order of the exact values. -/
theorem comparisonIsOfExactValues : Obligations.ComparisonIsOfExactValues := by
  intro a b
  refine ⟨fpCompare_unordered, fun ha hb => ?_⟩
  rw [fpCompare_ordered ha hb]
  refine ⟨fun less => if_pos less, fun greater => ?_, fun equal => ?_⟩
  · rw [if_neg (by omega), if_pos greater]
  · rw [if_neg (by omega), if_neg (by omega)]

end Sys2Proof.Machine
end

section
/-! Rounding an exact magnitude (R559): which of the two neighbouring multiples it is. -/
namespace Sys2Proof.Machine

/-! ### Rounding to a multiple of a unit -/

/-- Is the multiple of `u` above the magnitude `n` selected (R559)? Never if `n` is a multiple itself (`inexact_of_roundsUp`). -/
def roundsUp (neg : Bool) (n u : Nat) (rn : BitVec 2) : Bool :=
  if rn = 0 then decide (u < 2 * (n % u)) || (decide (2 * (n % u) = u) && n / u % 2 == 1)
  else if rn = 1 then false
  else if rn = 2 then n % u != 0 && !neg
  else n % u != 0 && neg

/-- The magnitude `n` rounded to a multiple of `u`, which counts as `2^q`. -/
def roundUnits (neg : Bool) (n u : Nat) (q : Int) (rn : BitVec 2) : Rounded :=
  ⟨if roundsUp neg n u rn then n / u + 1 else n / u, q, roundsUp neg n u rn, n % u != 0⟩

theorem above_half_iff (k r : Nat) (h : r < 2 ^ k) :
    (decide (0 < k) && (decide (2 ^ k / 2 < r) || (r == 2 ^ k / 2 && false))) = decide (2 ^ k < 2 * r) := by
  rw [Bool.and_false, Bool.or_false, ← Bool.decide_and, decide_eq_decide]
  cases k with
  | zero => omega
  | succ k => rw [Nat.pow_succ] at h ⊢; omega

theorem at_half_iff (k r : Nat) (h : r < 2 ^ k) :
    (decide (0 < k) && r == 2 ^ k / 2 && !false) = decide (2 * r = 2 ^ k) := by
  rw [Bool.not_false, Bool.and_true, beq_eq_decide, ← Bool.decide_and, decide_eq_decide]
  cases k with
  | zero => omega
  | succ k => rw [Nat.pow_succ] at h ⊢; omega

theorem scaleNat_nonpos (n : Nat) {k : Int} (h : k ≤ 0) : scaleNat n k = n / 2 ^ (-k).toNat := by
  unfold scaleNat
  split
  · rw [show k = 0 by omega]; simp
  · rfl

theorem scaleNat_nonneg (n : Nat) {k : Int} (h : 0 ≤ k) : scaleNat n k = n * 2 ^ k.toNat := if_pos h

/-- Rounding to a place above that of the last bit. -/
theorem roundTo_coarser (neg : Bool) (m : Nat) {e q : Int} (rn : BitVec 2) (h : e ≤ q) :
    roundTo ⟨neg, m, e, false⟩ q rn = roundUnits neg m (2 ^ (q - e).toNat) q rn := by
  have rest : m % 2 ^ (q - e).toNat < 2 ^ (q - e).toNat := Nat.mod_lt _ (Nat.two_pow_pos _)
  simp only [roundTo, roundUnits, roundsUp, above_half_iff _ _ rest, at_half_iff _ _ rest, scaleNat_nonpos m (show e - q ≤ 0 by omega),
    Int.neg_sub, Bool.or_false]
  rfl

/-- Rounding to a place that the last bit is not below leaves the magnitude as it is. -/
theorem roundTo_finer (neg : Bool) (m : Nat) {e q : Int} (rn : BitVec 2) (h : q ≤ e) :
    roundTo ⟨neg, m, e, false⟩ q rn = roundUnits neg (m * 2 ^ (e - q).toNat) 1 q rn := by
  have place : (q - e).toNat = 0 := by omega
  simp [roundTo, roundUnits, roundsUp, place, scaleNat_nonneg m (show 0 ≤ e - q by omega), Nat.mod_one]

/-- The unit in which magnitudes are counted does not matter. -/
theorem roundsUp_scale (neg : Bool) (n u : Nat) (rn : BitVec 2) {s : Nat} (hs : 0 < s) :
    roundsUp neg (n * s) (u * s) rn = roundsUp neg n u rn := by
  have inexact : (n % u * s != 0) = (n % u != 0) := by rw [Bool.eq_iff_iff]; simp [hs.ne']
  simp only [roundsUp, Nat.mul_mod_mul_right, Nat.mul_div_mul_right _ _ hs, ← Nat.mul_assoc, Nat.mul_lt_mul_right hs,
    Nat.mul_left_inj hs.ne', inexact]

theorem roundUnits_scale (neg : Bool) (n u : Nat) (q : Int) (rn : BitVec 2) {s : Nat} (hs : 0 < s) :
    roundUnits neg (n * s) (u * s) q rn = roundUnits neg n u q rn := by
  have inexact : (n * s % (u * s) != 0) = (n % u != 0) := by
    rw [Nat.mul_mod_mul_right, Bool.eq_iff_iff]
    simp [hs.ne']
  rw [roundUnits, roundsUp_scale _ _ _ _ hs, Nat.mul_div_mul_right _ _ hs, inexact, roundUnits]

/-- Any unit `2^t` that neither the last bit nor the place is below will do. -/
theorem roundTo_scaled (neg : Bool) (m : Nat) {e q t : Int} (rn : BitVec 2) (he : t ≤ e) (hq : t ≤ q) :
    roundTo ⟨neg, m, e, false⟩ q rn = roundUnits neg (m * 2 ^ (e - t).toNat) (2 ^ (q - t).toNat) q rn := by
  rcases Int.le_total e q with coarser | finer
  · have split_unit : 2 ^ (q - t).toNat = 2 ^ (q - e).toNat * 2 ^ (e - t).toNat := by
      rw [← Nat.pow_add]
      congr 1
      omega
    rw [roundTo_coarser neg m rn coarser, split_unit, roundUnits_scale _ _ _ _ _ (Nat.two_pow_pos _)]
  · have split_value : m * 2 ^ (e - t).toNat = m * 2 ^ (e - q).toNat * 2 ^ (q - t).toNat := by
      rw [Nat.mul_assoc, ← Nat.pow_add]
      congr 2
      omega
    have scaled := roundUnits_scale neg (m * 2 ^ (e - q).toNat) 1 q rn (Nat.two_pow_pos (q - t).toNat)
    rw [roundTo_finer neg m rn finer, split_value, ← scaled, Nat.one_mul]

/-! ### Which neighbour it is -/

/-- The rounding modes (R74). -/
theorem roundingMode_cases : ∀ rn : BitVec 2, rn = 0 ∨ rn = 1 ∨ rn = 2 ∨ rn = 3 := by decide

section
variable (neg : Bool) (n u : Nat)

theorem roundsUp_nearest : roundsUp neg n u 0 = true ↔ u < 2 * (n % u) ∨ (2 * (n % u) = u ∧ n / u % 2 = 1) := by
  simp [roundsUp]

theorem roundsUp_towardZero : roundsUp neg n u 1 = false := rfl

theorem roundsUp_upward : roundsUp neg n u 2 = true ↔ n % u ≠ 0 ∧ neg = false := by simp [roundsUp]

theorem roundsUp_downward : roundsUp neg n u 3 = true ↔ n % u ≠ 0 ∧ neg = true := by simp [roundsUp]

/-- A multiple is not incremented. -/
theorem inexact_of_roundsUp {rn : BitVec 2} (hu : 0 < u) (h : roundsUp neg n u rn = true) : n % u ≠ 0 := by
  rcases roundingMode_cases rn with rfl | rfl | rfl | rfl
  · have nearest := (roundsUp_nearest neg n u).mp h
    omega
  · cases h
  · exact ((roundsUp_upward neg n u).mp h).1
  · exact ((roundsUp_downward neg n u).mp h).1

end

section
variable (neg : Bool) (n u : Nat) (q : Int) (rn : BitVec 2) (hu : 0 < u)
include hu

/-- The result is the multiple above an inexact magnitude, or the one below. -/
theorem roundUnits_cases : let r := roundUnits neg n u q rn
    (r.inc = true ∧ roundsUp neg n u rn = true ∧ n % u ≠ 0 ∧ r.man = n / u + 1 ∧ r.man * u + n % u = n + u) ∨
      (r.inc = false ∧ roundsUp neg n u rn = false ∧ r.man = n / u ∧ r.man * u + n % u = n) := by
  have parts : n / u * u + n % u = n := Nat.div_add_mod' n u
  cases up : roundsUp neg n u rn with
  | true =>
    refine .inl ⟨up, rfl, inexact_of_roundsUp neg n u hu up, by simp [roundUnits, up], ?_⟩
    simp only [roundUnits, up, if_true, Nat.succ_mul]
    omega
  | false =>
    refine .inr ⟨up, rfl, by simp [roundUnits, up], ?_⟩
    simpa [roundUnits, up] using parts

/-- FR: the result is above the magnitude (R559). -/
theorem roundUnits_inc_iff : (roundUnits neg n u q rn).inc = true ↔ n < (roundUnits neg n u q rn).man * u := by
  have rest : n % u < u := Nat.mod_lt _ hu
  rcases roundUnits_cases neg n u q rn hu with ⟨inc, -, -, -, above⟩ | ⟨inc, -, -, below⟩
  · exact iff_of_true inc (by omega)
  · exact iff_of_false (by simp [inc]) (by omega)

/-- FI: the result is not the magnitude (R559). -/
theorem roundUnits_inexact_iff : (roundUnits neg n u q rn).inexact = true ↔ (roundUnits neg n u q rn).man * u ≠ n := by
  have rest : n % u < u := Nat.mod_lt _ hu
  have inexact : (roundUnits neg n u q rn).inexact = true ↔ n % u ≠ 0 := by simp [roundUnits]
  rw [inexact]
  rcases roundUnits_cases neg n u q rn hu with ⟨-, -, between, -, above⟩ | ⟨-, -, -, below⟩ <;> omega

end

/-- Settles O43: the result is the multiple below or, if it is incremented, the one above; the mode decides which. -/
theorem roundingIsToTheNeighbourTheModeSelects : Obligations.RoundingIsToTheNeighbourTheModeSelects := by
  intro neg m e q rn h u r
  have hu : 0 < u := Nat.two_pow_pos _
  have hr : r = roundUnits neg m u q rn := roundTo_coarser neg m rn h
  clear_value u r
  have rest : m % u < u := Nat.mod_lt _ hu
  have inexact : r.inexact = true ↔ m % u ≠ 0 := by simp [hr, roundUnits]
  have no_multiple : r.inexact = true ↔ r.man * u ≠ m := hr ▸ roundUnits_inexact_iff neg m u q rn hu
  have neighbour := roundUnits_cases neg m u q rn hu
  simp only [← hr] at neighbour
  refine ⟨hr ▸ rfl, inexact, hr ▸ roundUnits_inc_iff neg m u q rn hu, fun h => ?_, ?_, ?_, ?_, ?_⟩
  · simpa [h] using no_multiple
  all_goals
    rintro rfl
    simp only [← Bool.not_eq_true, roundsUp_nearest, roundsUp_towardZero, roundsUp_upward, roundsUp_downward] at neighbour
  · omega
  · simp at neighbour; omega
  · cases neg <;> simp at neighbour ⊢ <;> omega
  · cases neg <;> simp at neighbour ⊢ <;> omega

end Sys2Proof.Machine
end

section
/-! Conversion of a finite double to an integer: the integer that the mode selects, its range and its status (R612, R671 to R674). -/
namespace Sys2Proof.Machine

/-! ### The integer that the mode selects (R612) -/

/-- What the quotient toward minus infinity, and the rest, of a negated number are. -/
theorem neg_ediv_emod {n u : Nat} (hu : 0 < u) :
    (n % u = 0 ∧ -(n : Int) / u = -(n / u : Nat) ∧ -(n : Int) % u = 0) ∨
      (n % u ≠ 0 ∧ -(n : Int) / u = -(n / u : Nat) - 1 ∧ -(n : Int) % u = u - (n % u : Nat)) := by
  rw [Int.neg_ediv, Int.neg_emod]
  simp only [Int.natCast_dvd_natCast, Nat.dvd_iff_mod_eq_zero]
  by_cases h : n % u = 0
  · simp [h]
  · have sign : (u : Int).sign = 1 := Int.sign_eq_one_of_pos (by omega)
    simp [h, sign]

/-- The integer that the mode selects has the sign of the number and the magnitude that `roundUnits` gives. -/
theorem integerOf_signed (rn : BitVec 2) (neg : Bool) (n : Nat) :
    integerOf rn (signed neg n) = signed neg (roundUnits neg n (2 ^ 1074) 0 rn).man := by
  unfold integerOf
  generalize 1074 = place
  rw [show (2 ^ place : Int) = (2 ^ place : Nat) from (Int.natCast_pow 2 place).symm]
  have hu : 0 < 2 ^ place := Nat.two_pow_pos _
  generalize 2 ^ place = u at hu ⊢
  have rest : n % u < u := Nat.mod_lt _ hu
  have quotient := neg_ediv_emod (n := n) hu
  have toward : (n : Int).tdiv u = (n / u : Nat) := Int.ofNat_tdiv n u
  have neighbour := roundUnits_cases neg n u 0 rn hu
  generalize roundUnits neg n u 0 rn = r at neighbour ⊢
  rcases roundingMode_cases rn with rfl | rfl | rfl | rfl
  all_goals
    simp only [← Bool.not_eq_true, roundsUp_nearest, roundsUp_towardZero, roundsUp_upward, roundsUp_downward] at neighbour
    cases neg <;>
      simp only [signed, if_true, if_false, Bool.false_eq_true, BitVec.reduceEq, Int.neg_neg, Int.neg_tdiv,
        toward, and_true, and_false, true_and, false_and, not_true, not_false_iff, false_or] at neighbour ⊢ <;>
      omega

/-- A double rounded to an integer, in units of `2^-1074`. -/
theorem roundTo_integer (x : DWord) (rn : BitVec 2) : roundTo ⟨signOf x, (magOf x).man, (magOf x).exp, false⟩ 0 rn =
    roundUnits (signOf x) (scaledAbs x) (2 ^ 1074) 0 rn := by
  have place : (0 - -1074 : Int).toNat = 1074 := rfl
  rw [roundTo_scaled _ _ rn (magOf_exp_ge x) (by omega), Int.sub_neg, place, scaledAbs]

/-- FI and FR of a rounded magnitude, said of the numbers that have the sign (R557, R559). -/
theorem signed_roundUnits_status (neg : Bool) (n : Nat) {u : Nat} (q : Int) (rn : BitVec 2) (hu : 0 < u) :
    let r := roundUnits neg n u q rn
    (r.inexact = true ↔ signed neg r.man * u ≠ signed neg n) ∧
      (r.inc = true ↔ (signed neg n).natAbs < (signed neg r.man).natAbs * u) := by
  intro r
  rw [natAbs_signed, natAbs_signed, ne_eq, signed_mul_eq_iff]
  exact ⟨roundUnits_inexact_iff neg n u q rn hu, roundUnits_inc_iff neg n u q rn hu⟩

theorem integerOf_status (rn : BitVec 2) (x : DWord) :
    let r := roundUnits (signOf x) (scaledAbs x) (2 ^ 1074) 0 rn
    let n := integerOf rn (scaledValue x)
    (r.inexact = true ↔ n * (2 ^ 1074 : Nat) ≠ scaledValue x) ∧
      (r.inc = true ↔ (scaledValue x).natAbs < n.natAbs * 2 ^ 1074) := by
  rw [scaledValue_eq_signed, integerOf_signed]
  exact signed_roundUnits_status _ _ _ _ (pow_pos Nat.two_pos 1074)

/-! ### The result and its range (R571, R572) -/

/-- One more than the largest integer of the format: `2^31` or `2^63` (R572). -/
def integerLimit (word : Bool) : Int := if word then 2 ^ 31 else 2 ^ 63

theorem extremeInt_eq (word neg : Bool) : extremeInt (if word then 32 else 64) neg =
    if neg then -integerLimit word else integerLimit word - 1 := by
  cases word <;> cases neg <;> rfl

/-- What FRT receives is the integer if that is in range. -/
theorem integerResult_toInt (word : Bool) {n : Int} (high : DWord) (lo : -integerLimit word ≤ n) (hi : n < integerLimit word) :
    (if word then ((integerResult word n high).setWidth 32).toInt else (integerResult word n high).toInt) = n := by
  cases word with
  | false => exact BitVec.toInt_ofInt_eq_self (by omega) lo hi
  | true =>
    have low : (hiWord high ++ BitVec.ofInt 32 n).setWidth 32 = BitVec.ofInt 32 n := BitVec.setWidth_append_eq_right
    show ((hiWord high ++ BitVec.ofInt 32 n).setWidth 32).toInt = n
    rw [low]
    exact BitVec.toInt_ofInt_eq_self (by omega) lo hi

/-- An Invalid Operation of a conversion delivers, unless it is enabled, the extreme integer of the sign. -/
theorem invalidConversion_convertInvalid (f : Word) (word neg : Bool) (occ : List FpExc) (p high : DWord) :
    invalidConversion word f occ neg
      (convertInvalid f word occ (extremeInt (if word then 32 else 64) neg) p high) := by
  have limit : (0 : Int) < integerLimit word := by cases word <;> decide
  rw [extremeInt_eq]
  cases enabled : bitAt f 24 with
  | true => simp [invalidConversion, convertInvalid, enabled]
  | false =>
    simp only [invalidConversion, convertInvalid, enabled, Bool.false_eq_true, if_false, true_and, false_imp_iff, true_imp_iff]
    refine ⟨_, rfl, integerResult_toInt word high ?_ ?_⟩ <;> split <;> omega

theorem extremeInt_range (word : Bool) (n : Int) :
    (n < extremeInt (if word then 32 else 64) true ∨ extremeInt (if word then 32 else 64) false < n) ↔
      (n < -integerLimit word ∨ integerLimit word ≤ n) := by
  rw [extremeInt_eq, extremeInt_eq]
  exact or_congr Iff.rfl Int.sub_one_lt_iff

section
variable (word : Bool) (rn : BitVec 2) (f : Word) {x : DWord} (p q : DWord) (finite : expOf x < 2047)
include finite

/-- The integer whose range is tested is the one that the mode selects. -/
theorem fpToInteger_finite :
    let r := roundUnits (signOf x) (scaledAbs x) (2 ^ 1074) 0 rn
    let n := integerOf rn (scaledValue x)
    fpToInteger word rn f x p q =
      if n < extremeInt (if word then 32 else 64) true ∨ extremeInt (if word then 32 else 64) false < n then
        convertInvalid f word [.vxcvi] (extremeInt (if word then 32 else 64) (signOf x)) p q
      else ⟨some (integerResult word n q), some (fld p 0 5), r.inc, r.inexact, if r.inexact then [.xx] else [], 2⟩ := by
  intro r n
  have selected : n = signed (signOf x) r.man := integerOf_signed rn _ _
  rw [selected]
  unfold fpToInteger
  simp only [isNaN_of_finite finite, isInf_of_finite finite, Bool.false_eq_true, if_false, roundTo_integer]
  rfl

theorem fpToInteger_inRange (lo : -integerLimit word ≤ integerOf rn (scaledValue x))
    (hi : integerOf rn (scaledValue x) < integerLimit word) :
    let r := roundUnits (signOf x) (scaledAbs x) (2 ^ 1074) 0 rn
    fpToInteger word rn f x p q =
      ⟨some (integerResult word (integerOf rn (scaledValue x)) q), some (fld p 0 5), r.inc, r.inexact,
        if r.inexact then [.xx] else [], 2⟩ := by
  refine (fpToInteger_finite word rn f p q finite).trans (if_neg ?_)
  rw [extremeInt_range]
  omega

theorem fpToInteger_outOfRange (out : integerOf rn (scaledValue x) < -integerLimit word ∨
    integerLimit word ≤ integerOf rn (scaledValue x)) :
    fpToInteger word rn f x p q = convertInvalid f word [.vxcvi] (extremeInt (if word then 32 else 64) (signOf x)) p q :=
  (fpToInteger_finite word rn f p q finite).trans (if_pos ((extremeInt_range word _).mpr out))

end

/-- Settles O53: in range the status is that of the rounded magnitude, out of range the operation is invalid. -/
theorem conversionTowardZero : Obligations.ConversionTowardZero := by
  intro word rn f x p q finite limit unit n o
  refine ⟨fun lo hi => ?_, fun out => ?_⟩
  · obtain ⟨inexact, inc⟩ := integerOf_status rn x
    rw [show o = _ from fpToInteger_inRange word rn f p q finite lo hi]
    refine ⟨⟨_, rfl, integerResult_toInt word q lo hi⟩, inexact, inc, ?_⟩
    by_cases same : n * unit = scaledValue x
    · rw [if_pos same]
      exact if_neg fun h => inexact.mp h same
    · rw [if_neg same]
      exact if_pos (inexact.mpr same)
  · rw [show o = _ from fpToInteger_outOfRange word rn f p q finite out]
    exact invalidConversion_convertInvalid _ _ _ _ _ _

end Sys2Proof.Machine
end

section
/-! NaNs, infinities and zeros as operands: Invalid Operation, Zero Divide and exact results (R541 to R545, R562, R570 to R577). -/
namespace Sys2Proof.Machine

/-! ### Classes of patterns (R532) -/

section
variable {x : DWord}

theorem isNaN_of_isInf (h : isInf x = true) : isNaN x = false := by
  simp only [isInf, Bool.and_eq_true, beq_iff_eq] at h
  simp [isNaN, h]

theorem isZero_of_isInf (h : isInf x = true) : isZero x = false := by
  simp only [isInf, Bool.and_eq_true, beq_iff_eq] at h
  simp [isZero, h]

theorem isNaN_of_isZero (h : isZero x = true) : isNaN x = false := by
  simp only [isZero, Bool.and_eq_true, beq_iff_eq] at h
  simp [isNaN, h]

theorem isInf_of_isZero (h : isZero x = true) : isInf x = false := by
  simp only [isZero, Bool.and_eq_true, beq_iff_eq] at h
  simp [isInf, h]

theorem isSNaN_of_number (h : isNaN x = false) : isSNaN x = false := by simp [isSNaN, h]

theorem isNaN_of_isSNaN (h : isSNaN x = true) : isNaN x = true := by
  rw [isSNaN, Bool.and_eq_true] at h
  exact h.1

theorem isNaN_of_isQNaN (h : isQNaN x = true) : isNaN x = true := by
  rw [isQNaN, Bool.and_eq_true] at h
  exact h.1

theorem bitAt_of_isQNaN (h : isQNaN x = true) : bitAt x 12 = true := by
  rw [isQNaN, Bool.and_eq_true] at h
  exact h.2

theorem isSNaN_of_isQNaN (h : isQNaN x = true) : isSNaN x = false := by simp [isSNaN, bitAt_of_isQNaN h]

theorem eq_infinity (h : isInf x = true) : x = infinity (signOf x) := by
  simp only [isInf, Bool.and_eq_true, beq_iff_eq] at h
  obtain ⟨exp, frac⟩ := h
  refine eq_of_parts (signOf_withSign _ _).symm ?_ ?_
  · rw [exp, infinity, expOf_withSign]; rfl
  · rw [frac, infinity, fracOf_withSign]; rfl

theorem eq_zeroOf (h : isZero x = true) : x = zeroOf (signOf x) := by
  simp only [isZero, Bool.and_eq_true, beq_iff_eq] at h
  obtain ⟨exp, frac⟩ := h
  refine eq_of_parts (signOf_withSign _ _).symm ?_ ?_
  · rw [exp, zeroOf, expOf_withSign]; rfl
  · rw [frac, zeroOf, fracOf_withSign]; rfl

end

/-! ### The sign inverted (R650) -/

@[simp] theorem signOf_negated (x : DWord) : signOf (negated x) = !signOf x := signOf_withSign _ _

@[simp] theorem isInf_negated (x : DWord) : isInf (negated x) = isInf x := by simp [isInf, negated]

theorem negated_infinity (neg : Bool) : negated (infinity neg) = infinity (!neg) := by cases neg <;> decide

/-! ### NaNs made quiet (R541 to R543) -/

theorem quiet_eq (x : DWord) : quiet x = x ||| 0x0008000000000000#64 := by
  have mask : (0x0008000000000000#64 : DWord) = ones 64 12 1 := by decide
  apply eq_of_bitAt
  intro p hp
  rw [quiet, bitAt_setBitAt _ _ _ _ (by omega) hp, bitAt_or, mask, bitAt_ones _ _ _ _ (by omega) hp]
  by_cases h : p = 12
  · subst h; simp
  · rw [if_neg h, decide_eq_false (by omega), Bool.or_false]

theorem nanResult_eq_quietNaN (l : List DWord) : nanResult l = quietNaN l := by
  rw [nanResult, quietNaN, ← List.head?_filter]
  cases l.filter isNaN with
  | nil => decide
  | cons a _ => exact quiet_eq a

theorem quiet_of_isQNaN {x : DWord} (h : isQNaN x = true) : quiet x = x := by
  apply eq_of_bitAt
  intro p hp
  rw [quiet, bitAt_setBitAt _ _ _ _ (by omega) hp]
  split
  · next top => rw [top, bitAt_of_isQNaN h]
  · rfl

/-- A pattern with the exponent of a NaN and the first bit of the fraction is a NaN. -/
theorem isNaN_of_quiet {x : DWord} (exp : expOf x = 2047) (top : bitAt x 12 = true) : isNaN x = true := by
  have nonzero : fracOf x ≠ 0 := by
    intro zero
    have none : fld x 12 52 = 0#52 := BitVec.eq_of_toNat_eq zero
    have first := bitAt_fld x 12 52 0 (by omega) (by omega)
    rw [none, bitAt_zero] at first
    rw [← first] at top
    cases top
  simp [isNaN, exp, nonzero]

theorem isNaN_quiet {x : DWord} (h : isNaN x = true) : isNaN (quiet x) = true := by
  have exp : expOf (quiet x) = expOf x := congrArg BitVec.toNat (fld_setFld_other x 12 _ 1 11 (by omega) (by omega) (by omega))
  refine isNaN_of_quiet ?_ (bitAt_setBitAt_self x 12 true (by omega))
  simp only [isNaN, Bool.and_eq_true, beq_iff_eq] at h
  rw [exp, h.1]

theorem quietNaN_of_number {x : DWord} (h : isNaN x = false) (l : List DWord) : quietNaN (x :: l) = quietNaN l := by
  simp [quietNaN, h]

theorem quietNaN_of_nan {x : DWord} (h : isNaN x = true) (l : List DWord) : quietNaN (x :: l) = quiet x := by
  simp [quietNaN, h, quiet_eq]

theorem isNaN_quietNaN : ∀ l : List DWord, isNaN (quietNaN l) = true
  | [] => by decide
  | x :: l => by
    cases h : isNaN x with
    | true => rw [quietNaN_of_nan h, isNaN_quiet h]
    | false => rw [quietNaN_of_number h, isNaN_quietNaN l]

/-! ### Outcomes (R557, R571, R572, R576, R577) -/

theorem fprfOf_nan (fmt : Fmt) {x : DWord} (h : isNaN x = true) : fprfOf fmt x = 0b10001#5 := by
  cases fmt <;> exact if_pos h

theorem exactly_nan (fmt : Fmt) {x : DWord} (h : isNaN x = true) : exactly x 0b10001#5 (exactOut fmt x) :=
  ⟨rfl, congrArg some (fprfOf_nan fmt h), rfl, rfl, rfl⟩

theorem exactInfinity_exactOut (neg : Bool) : exactInfinity neg (exactOut .double (infinity neg)) := by
  cases neg <;> exact ⟨rfl, rfl, rfl, rfl, rfl⟩

theorem exactZero_exactOut (neg : Bool) : exactZero neg (exactOut .double (zeroOf neg)) := by
  cases neg <;> exact ⟨rfl, rfl, rfl, rfl, rfl⟩

theorem invalidOperation_invalidOut (f : Word) (occ : List FpExc) (nan : DWord) :
    invalidOperation f occ nan (invalidOut f occ nan) := by
  cases enabled : bitAt f 24 <;> simp [invalidOperation, invalidOut, enabled]

theorem zeroDivide_zeroDivideOut (f : Word) (neg : Bool) : zeroDivide f neg (zeroDivideOut f neg) := by
  have result : infinity neg = if neg then 0xFFF0000000000000#64 else 0x7FF0000000000000#64 := by cases neg <;> rfl
  have fprf : fprfOf .double (infinity neg) = if neg then 0b01001#5 else 0b00101#5 := by cases neg <;> rfl
  cases enabled : bitAt f 27 <;> simp [zeroDivide, zeroDivideOut, enabled, ← result, fprf]

/-! ### Elementary operations (R650) -/

/-- FRB as it takes part in an elementary operation. -/
def addend (op : ArithOp) (b : DWord) : DWord := if op = .sub then negated b else b

@[simp] theorem isInf_addend (op : ArithOp) (b : DWord) : isInf (addend op b) = isInf b := by unfold addend; split <;> simp

@[simp] theorem signOf_addend_sub (b : DWord) : signOf (addend .sub b) = !signOf b := signOf_negated b

section
variable {op : ArithOp} {fmt : Fmt} {f : Word} {a b : DWord} {v : Bool}

theorem fpArith_invalid {occ : List FpExc} (inv : arithInvalid op a b (addend op b) = occ) (some' : occ ≠ []) :
    invalidOperation f occ (quietNaN [a, b]) (fpArith op fmt f a b v) := by
  have out : fpArith op fmt f a b v = invalidOut f (arithInvalid op a b (addend op b)) (nanResult [a, b]) :=
    if_pos (inv ▸ some')
  rw [out, inv, nanResult_eq_quietNaN]
  exact invalidOperation_invalidOut _ _ _

theorem fpArith_quiet (valid : arithInvalid op a b (addend op b) = []) (nan : isNaN a = true ∨ isNaN b = true) :
    exactly (quietNaN [a, b]) 0b10001#5 (fpArith op fmt f a b v) := by
  have out : fpArith op fmt f a b v = exactOut fmt (nanResult [a, b]) :=
    (if_neg (not_not.mpr valid)).trans (if_pos (by simpa using nan))
  rw [out, nanResult_eq_quietNaN]
  exact exactly_nan fmt (isNaN_quietNaN _)

theorem fpArith_nanOperands (op : ArithOp) (fmt : Fmt) (f : Word) (a b : DWord) (v : Bool) :
    nanOperands f [a, b] (fpArith op fmt f a b v) := by
  constructor
  · intro signaling
    refine fpArith_invalid (if_pos ?_) (List.cons_ne_nil _ _)
    simpa using signaling
  · intro no_signaling nan
    have quiet_a : isSNaN a = false := no_signaling a (by simp)
    have quiet_b : isSNaN b = false := no_signaling b (by simp)
    have nan' : isNaN a = true ∨ isNaN b = true := by simpa using nan
    refine fpArith_quiet ?_ nan'
    unfold arithInvalid
    rw [if_neg (by simp [quiet_a, quiet_b]), if_pos (by simpa using nan')]

section
variable (numbers : isNaN a = false ∧ isNaN b = false)
include numbers

/-- An invalid operation on numbers delivers the generated QNaN. -/
theorem fpArith_invalid_numbers {occ : List FpExc} (inv : arithInvalid op a b (addend op b) = occ) (some' : occ ≠ []) :
    invalidOperation f occ (quietNaN []) (fpArith op fmt f a b v) := by
  have generated : quietNaN [a, b] = quietNaN [] := by rw [quietNaN_of_number numbers.1, quietNaN_of_number numbers.2]
  rw [← generated]
  exact fpArith_invalid inv some'

/-- A valid operation on numbers that gives an exact infinity or zero (R650 step 4). -/
theorem fpArith_special {x : DWord} (valid : arithInvalid op a b (addend op b) = [])
    (divisor : op = .div → isZero b = true → isInf a = true) (special : arithSpecial op f a b (addend op b) = some x) :
    fpArith op fmt f a b v = exactOut .double x := by
  have no_division : ¬(decide (op = .div) && isZero b && !isInf a) = true := by
    simp only [Bool.and_eq_true, decide_eq_true_eq, Bool.not_eq_true']
    rintro ⟨⟨division, zero⟩, finite⟩
    simp [divisor division zero] at finite
  have out : fpArith op fmt f a b v = match arithSpecial op f a b (addend op b) with
      | some x => exactOut .double x
      | none => roundSum fmt f (arithExact op a b (addend op b)) v :=
    (if_neg (not_not.mpr valid)).trans ((if_neg (by simp [numbers])).trans (if_neg no_division))
  rw [out, special]

theorem arithInvalid_sum (hop : op = .add ∨ op = .sub) (bx : DWord) :
    arithInvalid op a b bx = if isInf a && isInf bx && signOf a != signOf bx then [.vxisi] else [] := by
  obtain ⟨ha, hb⟩ := numbers
  rcases hop with rfl | rfl <;> simp [arithInvalid, isSNaN_of_number ha, isSNaN_of_number hb, ha, hb]

theorem arithInvalid_mul (bx : DWord) :
    arithInvalid .mul a b bx = if (isInf a && isZero b) || (isZero a && isInf b) then [.vximz] else [] := by
  obtain ⟨ha, hb⟩ := numbers
  simp [arithInvalid, isSNaN_of_number ha, isSNaN_of_number hb, ha, hb]

theorem arithInvalid_div (bx : DWord) :
    arithInvalid .div a b bx = if isInf a && isInf b then [.vxidi] else if isZero a && isZero b then [.vxzdz] else [] := by
  obtain ⟨ha, hb⟩ := numbers
  simp [arithInvalid, isSNaN_of_number ha, isSNaN_of_number hb, ha, hb]

/-! Sums and differences -/

theorem fpArith_sum_invalid (hop : op = .add ∨ op = .sub) (ha : isInf a = true) (hb : isInf b = true)
    (unlike : signOf a ≠ signOf (addend op b)) : invalidOperation f [.vxisi] (quietNaN []) (fpArith op fmt f a b v) := by
  refine fpArith_invalid_numbers numbers ?_ (List.cons_ne_nil _ _)
  rw [arithInvalid_sum numbers hop, isInf_addend, ha, hb, bne_iff_ne.mpr unlike]
  rfl

theorem fpArith_sum_left (hop : op = .add ∨ op = .sub) (ha : isInf a = true)
    (like : isInf b = true → signOf a = signOf (addend op b)) : exactInfinity (signOf a) (fpArith op fmt f a b v) := by
  have valid : arithInvalid op a b (addend op b) = [] := by
    rw [arithInvalid_sum numbers hop, isInf_addend]
    refine if_neg fun invalid => ?_
    simp only [Bool.and_eq_true, bne_iff_ne] at invalid
    exact invalid.2 (like invalid.1.2)
  have special : arithSpecial op f a b (addend op b) = some a := by rcases hop with rfl | rfl <;> exact if_pos ha
  have sum : op ≠ .div := by rcases hop with rfl | rfl <;> decide
  rw [fpArith_special numbers valid (fun division => absurd division sum) special, eq_infinity ha, infinity, signOf_withSign]
  exact exactInfinity_exactOut _

theorem fpArith_sum_right (hop : op = .add ∨ op = .sub) (ha : isInf a = false) (hb : isInf b = true) :
    exactInfinity (signOf (addend op b)) (fpArith op fmt f a b v) := by
  have valid : arithInvalid op a b (addend op b) = [] := by
    rw [arithInvalid_sum numbers hop]
    exact if_neg (by simp [ha])
  have inf : isInf (addend op b) = true := (isInf_addend op b).trans hb
  have special : arithSpecial op f a b (addend op b) = some (infinity (signOf (addend op b))) := by
    rw [← eq_infinity inf]
    rcases hop with rfl | rfl <;> exact (if_neg (by simp [ha])).trans (if_pos inf)
  have sum : op ≠ .div := by rcases hop with rfl | rfl <;> decide
  rw [fpArith_special numbers valid (fun division => absurd division sum) special]
  exact exactInfinity_exactOut _

/-! Products -/

theorem fpArith_mul_invalid (h : isInf a = true ∧ isZero b = true ∨ isZero a = true ∧ isInf b = true) :
    invalidOperation f [.vximz] (quietNaN []) (fpArith .mul fmt f a b v) := by
  refine fpArith_invalid_numbers numbers ?_ (List.cons_ne_nil _ _)
  rw [arithInvalid_mul numbers]
  exact if_pos (by simpa using h)

theorem fpArith_mul_infinity (h : isInf a = true ∧ isZero b = false ∨ isZero a = false ∧ isInf b = true) :
    exactInfinity (signOf a != signOf b) (fpArith .mul fmt f a b v) := by
  have valid : arithInvalid .mul a b (addend .mul b) = [] := by
    rw [arithInvalid_mul numbers]
    refine if_neg ?_
    rcases h with ⟨inf, nonzero⟩ | ⟨nonzero, inf⟩ <;> simp [inf, nonzero, isZero_of_isInf inf]
  have special : arithSpecial .mul f a b (addend .mul b) = some (infinity (signOf a ^^ signOf b)) := by
    refine if_pos ?_
    rcases h with ⟨inf, -⟩ | ⟨-, inf⟩ <;> simp [inf]
  rw [fpArith_special numbers valid (by simp) special]
  exact exactInfinity_exactOut _

/-! Quotients -/

theorem fpArith_div_infinities (ha : isInf a = true) (hb : isInf b = true) :
    invalidOperation f [.vxidi] (quietNaN []) (fpArith .div fmt f a b v) := by
  refine fpArith_invalid_numbers numbers ?_ (List.cons_ne_nil _ _)
  rw [arithInvalid_div numbers]
  exact if_pos (by simp [ha, hb])

theorem fpArith_div_zeros (ha : isZero a = true) (hb : isZero b = true) :
    invalidOperation f [.vxzdz] (quietNaN []) (fpArith .div fmt f a b v) := by
  refine fpArith_invalid_numbers numbers ?_ (List.cons_ne_nil _ _)
  rw [arithInvalid_div numbers]
  exact (if_neg (by simp [isInf_of_isZero ha])).trans (if_pos (by simp [ha, hb]))

theorem fpArith_div_infinity (ha : isInf a = true) (hb : isInf b = false) :
    exactInfinity (signOf a != signOf b) (fpArith .div fmt f a b v) := by
  have valid : arithInvalid .div a b (addend .div b) = [] := by
    rw [arithInvalid_div numbers]
    exact (if_neg (by simp [hb])).trans (if_neg (by simp [isZero_of_isInf ha]))
  rw [fpArith_special numbers valid (fun _ _ => ha) (if_pos ha)]
  exact exactInfinity_exactOut _

theorem fpArith_div_zero (ha : isInf a = false) (hb : isInf b = true) :
    exactZero (signOf a != signOf b) (fpArith .div fmt f a b v) := by
  have valid : arithInvalid .div a b (addend .div b) = [] := by
    rw [arithInvalid_div numbers]
    exact (if_neg (by simp [ha])).trans (if_neg (by simp [isZero_of_isInf hb]))
  have special : arithSpecial .div f a b (addend .div b) = some (zeroOf (signOf a ^^ signOf b)) :=
    (if_neg (by simp [ha])).trans (if_pos (by simp [hb]))
  rw [fpArith_special numbers valid (fun _ zero => by simp [isZero_of_isInf hb] at zero) special]
  exact exactZero_exactOut _

theorem fpArith_zeroDivide (inf : isInf a = false) (ha : isZero a = false) (hb : isZero b = true) :
    zeroDivide f (signOf a != signOf b) (fpArith .div fmt f a b v) := by
  have valid : arithInvalid .div a b (addend .div b) = [] := by
    rw [arithInvalid_div numbers]
    exact (if_neg (by simp [inf])).trans (if_neg (by simp [ha]))
  have out : fpArith .div fmt f a b v = zeroDivideOut f (signOf a ^^ signOf b) :=
    (if_neg (not_not.mpr valid)).trans ((if_neg (by simp [numbers])).trans (if_pos (by simp [inf, hb])))
  rw [out]
  exact zeroDivide_zeroDivideOut _ _

end

end

end Sys2Proof.Machine
end

section
/-! Multiply-adds, roots, conversions and estimates of NaNs, infinities and zeros (R562, R660, R670 to R674, R705, R707, R708). -/
namespace Sys2Proof.Machine

/-! ### Multiply-add (R660) -/

/-- FRB as it takes part in a multiply-add. -/
def summand (sub : Bool) (b : DWord) : DWord := if sub then negated b else b

@[simp] theorem isInf_summand (sub : Bool) (b : DWord) : isInf (summand sub b) = isInf b := by cases sub <;> simp [summand]

@[simp] theorem signOf_summand (sub : Bool) (b : DWord) : signOf (summand sub b) = (signOf b != sub) := by
  cases sub <;> simp [summand]

section
variable {fmt : Fmt} {sub neg : Bool} {f : Word} {a b c : DWord} {v : Bool}

/-- The Invalid Operations of the multiplication and of the addition, in the terms of the operands (R562). -/
theorem mulAddInvalid_summand : mulAddInvalid a c b (summand sub b) =
    (if isSNaN a || isSNaN b || isSNaN c then [FpExc.vxsnan] else []) ++ (if productInvalid a c then [.vximz] else []) ++
      (if productInfinite a c && isInf b && (signOf a != signOf c) != (signOf b != sub) then [.vxisi] else []) := by
  rw [mulAddInvalid, isInf_summand, signOf_summand, Bool.or_right_comm]

theorem fpMulAdd_invalid (invalid : mulAddInvalid a c b (summand sub b) ≠ []) :
    invalidOperation f (mulAddInvalid a c b (summand sub b)) (quietNaN [a, b, c]) (fpMulAdd fmt sub neg f a c b v) := by
  have out : fpMulAdd fmt sub neg f a c b v = invalidOut f (mulAddInvalid a c b (summand sub b)) (nanResult [a, b, c]) :=
    if_pos invalid
  rw [out, nanResult_eq_quietNaN]
  exact invalidOperation_invalidOut _ _ _

theorem fpMulAdd_quiet (valid : mulAddInvalid a c b (summand sub b) = []) (nan : (isNaN a || isNaN b || isNaN c) = true) :
    exactly (quietNaN [a, b, c]) 0b10001#5 (fpMulAdd fmt sub neg f a c b v) := by
  have out : fpMulAdd fmt sub neg f a c b v = exactOut fmt (nanResult [a, b, c]) :=
    (if_neg (not_not.mpr valid)).trans (if_pos nan)
  rw [out, nanResult_eq_quietNaN]
  exact exactly_nan fmt (isNaN_quietNaN _)

/-- An infinity is negated with the result. -/
theorem fpMulAdd_infinity {s : Bool} (valid : mulAddInvalid a c b (summand sub b) = [])
    (numbers : (isNaN a || isNaN b || isNaN c) = false) (special : mulAddSpecial f a c (summand sub b) = some (infinity s)) :
    exactInfinity (s != neg) (fpMulAdd fmt sub neg f a c b v) := by
  have delivered : (if neg then negated (infinity s) else infinity s) = infinity (s != neg) := by
    cases neg <;> simp [negated_infinity]
  have out : fpMulAdd fmt sub neg f a c b v = exactOut .double (if neg then negated (infinity s) else infinity s) := by
    refine (if_neg (not_not.mpr valid)).trans ((if_neg (by simp [numbers])).trans ?_)
    show (match mulAddSpecial f a c (summand sub b) with | some x => _ | none => _) = _
    rw [special]
  rw [out, delivered]
  exact exactInfinity_exactOut _

theorem mulAddSpecial_product (endless : productInfinite a c = true) (bx : DWord) :
    mulAddSpecial f a c bx = some (infinity (signOf a != signOf c)) := if_pos endless

theorem mulAddSpecial_summand (finite : productInfinite a c = false) (inf : isInf b = true) :
    mulAddSpecial f a c (summand sub b) = some (infinity (signOf b != sub)) := by
  have inf' : isInf (summand sub b) = true := by rw [isInf_summand, inf]
  rw [← signOf_summand, ← eq_infinity inf']
  exact (if_neg (by simp [finite])).trans (if_pos inf')

end

/-! ### Square root (R705) -/

section
variable {fmt : Fmt} {f : Word} {b : DWord} {v : Bool}

theorem isQNaN_of_isNaN (nan : isNaN b = true) (no_signaling : isSNaN b = false) : isQNaN b = true := by
  simpa [isQNaN, isSNaN, nan] using no_signaling

theorem quietNaN_of_isQNaN (h : isQNaN b = true) : quietNaN [b] = b := by
  rw [quietNaN_of_nan (isNaN_of_isQNaN h), quiet_of_isQNaN h]

theorem sqrtInvalid_signaling (h : isSNaN b = true) : sqrtInvalid b = [.vxsnan] := if_pos h

theorem sqrtInvalid_negative (nan : isNaN b = false) (zero : isZero b = false) (sign : signOf b = true) :
    sqrtInvalid b = [.vxsqrt] := by
  simp [sqrtInvalid, isSNaN_of_number nan, nan, zero, sign]

theorem sqrtInvalid_valid (no_signaling : isSNaN b = false) (h : isNaN b = true ∨ isZero b = true ∨ signOf b = false) :
    sqrtInvalid b = [] := by
  rcases h with h | h | h <;> simp [sqrtInvalid, no_signaling, h]

theorem fpSqrt_invalid {occ : List FpExc} (inv : sqrtInvalid b = occ) (some' : occ ≠ []) :
    invalidOperation f occ (quietNaN [b]) (fpSqrt fmt f b v) := by
  have out : fpSqrt fmt f b v = invalidOut f (sqrtInvalid b) (nanResult [b]) := if_pos (inv ▸ some')
  rw [out, inv, nanResult_eq_quietNaN]
  exact invalidOperation_invalidOut _ _ _

theorem fpSqrt_exact (valid : sqrtInvalid b = []) (h : isNaN b = true ∨ isZero b = true ∨ isInf b = true) :
    fpSqrt fmt f b v = exactOut .double b :=
  (if_neg (not_not.mpr valid)).trans (if_pos (by simpa [or_assoc] using h))

theorem fpSqrt_nanOperands : nanOperands f [b] (fpSqrt fmt f b v) := by
  constructor
  · intro signaling
    exact fpSqrt_invalid (sqrtInvalid_signaling (by simpa using signaling)) (List.cons_ne_nil _ _)
  · intro no_signaling nan
    have not_signaling : isSNaN b = false := no_signaling b (by simp)
    have nan' : isNaN b = true := by simpa using nan
    rw [fpSqrt_exact (sqrtInvalid_valid not_signaling (.inl nan')) (.inl nan'),
      quietNaN_of_isQNaN (isQNaN_of_isNaN nan' not_signaling)]
    exact exactly_nan _ nan'

theorem fpSqrt_negative (nan : isNaN b = false) (zero : isZero b = false) (sign : signOf b = true) :
    invalidOperation f [.vxsqrt] (quietNaN []) (fpSqrt fmt f b v) := by
  rw [← quietNaN_of_number nan]
  exact fpSqrt_invalid (sqrtInvalid_negative nan zero sign) (List.cons_ne_nil _ _)

theorem fpSqrt_zero (zero : isZero b = true) : exactZero (signOf b) (fpSqrt fmt f b v) := by
  have valid : sqrtInvalid b = [] := sqrtInvalid_valid (isSNaN_of_number (isNaN_of_isZero zero)) (.inr (.inl zero))
  rw [fpSqrt_exact valid (.inr (.inl zero)), eq_zeroOf zero, zeroOf, signOf_withSign]
  exact exactZero_exactOut _

theorem fpSqrt_infinity (inf : isInf b = true) (sign : signOf b = false) : exactInfinity false (fpSqrt fmt f b v) := by
  have valid : sqrtInvalid b = [] := sqrtInvalid_valid (isSNaN_of_number (isNaN_of_isInf inf)) (.inr (.inr sign))
  rw [fpSqrt_exact valid (.inr (.inr inf)), eq_infinity inf, sign]
  exact exactInfinity_exactOut _

/-! ### Rounding to single precision (R670) -/

/-- The bits that a NaN rounded to single precision keeps. -/
theorem bitAt_singleBits {p : Nat} (hp : p < 35) : bitAt 0xFFFFFFFFE0000000#64 p = true := by
  have mask : (0xFFFFFFFFE0000000#64 : DWord) = ones 64 0 35 := by decide
  rw [mask, bitAt_ones _ _ _ _ (by omega) (by omega), decide_eq_true (by omega)]

theorem isNaN_truncated {x : DWord} (nan : isNaN x = true) (top : bitAt x 12 = true) :
    isNaN (x &&& 0xFFFFFFFFE0000000#64) = true := by
  have exp : fld (x &&& 0xFFFFFFFFE0000000#64) 1 11 = fld x 1 11 := by
    apply eq_of_bitAt
    intro q hq
    rw [bitAt_fld _ _ _ _ (by omega) hq, bitAt_fld _ _ _ _ (by omega) hq, bitAt_and, bitAt_singleBits (by omega), Bool.and_true]
  refine isNaN_of_quiet ?_ ?_
  · simp only [isNaN, Bool.and_eq_true, beq_iff_eq] at nan
    exact (congrArg BitVec.toNat exp).trans nan.1
  · rw [bitAt_and, top, bitAt_singleBits (by omega), Bool.and_true]

theorem fpRoundSingle_signaling (h : isSNaN b = true) :
    invalidOperation f [.vxsnan] (quietNaN [b] &&& 0xFFFFFFFFE0000000#64) (fpRoundSingle f b v) := by
  have out : fpRoundSingle f b v = invalidOut f [.vxsnan] (quiet b &&& 0xFFFFFFFFE0000000#64) := if_pos h
  rw [out, quietNaN_of_nan (isNaN_of_isSNaN h)]
  exact invalidOperation_invalidOut _ _ _

theorem fpRoundSingle_quiet (h : isQNaN b = true) : exactly (b &&& 0xFFFFFFFFE0000000#64) 0b10001#5 (fpRoundSingle f b v) := by
  have out : fpRoundSingle f b v = exactOut .double (quiet b &&& 0xFFFFFFFFE0000000#64) :=
    (if_neg (by simp [isSNaN_of_isQNaN h])).trans (if_pos (isNaN_of_isQNaN h))
  rw [out, quiet_of_isQNaN h]
  exact exactly_nan _ (isNaN_truncated (isNaN_of_isQNaN h) (bitAt_of_isQNaN h))

theorem fpRoundSingle_infinity (h : isInf b = true) : exactInfinity (signOf b) (fpRoundSingle f b v) := by
  have nan := isNaN_of_isInf h
  have out : fpRoundSingle f b v = exactOut .double b :=
    (if_neg (by simp [isSNaN_of_number nan])).trans ((if_neg (by simp [nan])).trans (if_pos (by simp [h])))
  rw [out, eq_infinity h, infinity, signOf_withSign]
  exact exactInfinity_exactOut _

/-! ### Conversion to an integer (R671 to R674) -/

section
variable (word : Bool) (rn : BitVec 2) (p q : DWord)

theorem fpToInteger_nan {occ : List FpExc} (h : isNaN b = true) (hocc : (if isSNaN b then [.vxsnan, .vxcvi] else [.vxcvi]) = occ) :
    invalidConversion word f occ true (fpToInteger word rn f b p q) := by
  have out : fpToInteger word rn f b p q = convertInvalid f word (if isSNaN b then [.vxsnan, .vxcvi] else [.vxcvi])
      (extremeInt (if word then 32 else 64) true) p q := if_pos h
  rw [out, hocc]
  exact invalidConversion_convertInvalid _ _ _ _ _ _

theorem fpToInteger_infinity (h : isInf b = true) :
    invalidConversion word f [.vxcvi] (signOf b) (fpToInteger word rn f b p q) := by
  have out : fpToInteger word rn f b p q = convertInvalid f word [.vxcvi] (extremeInt (if word then 32 else 64) (signOf b)) p q :=
    (if_neg (by simp [isNaN_of_isInf h])).trans (if_pos h)
  rw [out]
  exact invalidConversion_convertInvalid _ _ _ _ _ _

end

/-! ### Estimates (R707, R708) -/

section
variable {raw w : DWord} {want : Bool × Bool}

theorem fpReciprocal_signaling (h : isSNaN b = true) :
    invalidOperation f [.vxsnan] (quietNaN [b]) (fpReciprocal f b raw want w) := by
  have out : fpReciprocal f b raw want w = invalidOut f [.vxsnan] (quiet b) := if_pos h
  rw [out, quietNaN_of_nan (isNaN_of_isSNaN h)]
  exact invalidOperation_invalidOut _ _ _

theorem fpReciprocal_quiet (h : isQNaN b = true) : fpReciprocal f b raw want w = estimateOut .single b [] w :=
  (if_neg (by simp [isSNaN_of_isQNaN h])).trans (if_pos (isNaN_of_isQNaN h))

theorem fpReciprocal_zero (h : isZero b = true) : fpReciprocal f b raw want w = zeroDivideOut f (signOf b) := by
  have nan := isNaN_of_isZero h
  exact (if_neg (by simp [isSNaN_of_number nan])).trans ((if_neg (by simp [nan])).trans (if_pos h))

theorem fpReciprocal_infinity (h : isInf b = true) : fpReciprocal f b raw want w = estimateOut .single (zeroOf (signOf b)) [] w := by
  have nan := isNaN_of_isInf h
  exact (if_neg (by simp [isSNaN_of_number nan])).trans ((if_neg (by simp [nan])).trans
    ((if_neg (by simp [isZero_of_isInf h])).trans (if_pos h)))

theorem fpRootReciprocal_invalid {occ : List FpExc} (inv : sqrtInvalid b = occ) (some' : occ ≠ []) :
    invalidOperation f occ (quietNaN [b]) (fpRootReciprocal f b raw w) := by
  have out : fpRootReciprocal f b raw w = invalidOut f (sqrtInvalid b) (nanResult [b]) := if_pos (inv ▸ some')
  rw [out, inv, nanResult_eq_quietNaN]
  exact invalidOperation_invalidOut _ _ _

theorem fpRootReciprocal_quiet (h : isQNaN b = true) : fpRootReciprocal f b raw w = estimateOut .double b [] w :=
  (if_neg (not_not.mpr (sqrtInvalid_valid (isSNaN_of_isQNaN h) (.inl (isNaN_of_isQNaN h))))).trans (if_pos (isNaN_of_isQNaN h))

theorem fpRootReciprocal_zero (h : isZero b = true) : fpRootReciprocal f b raw w = zeroDivideOut f (signOf b) := by
  have nan := isNaN_of_isZero h
  exact (if_neg (not_not.mpr (sqrtInvalid_valid (isSNaN_of_number nan) (.inr (.inl h))))).trans
    ((if_neg (by simp [nan])).trans (if_pos h))

theorem fpRootReciprocal_infinity (h : isInf b = true) (sign : signOf b = false) :
    fpRootReciprocal f b raw w = estimateOut .double 0 [] w := by
  have nan := isNaN_of_isInf h
  exact (if_neg (not_not.mpr (sqrtInvalid_valid (isSNaN_of_number nan) (.inr (.inr sign))))).trans
    ((if_neg (by simp [nan])).trans ((if_neg (by simp [isZero_of_isInf h])).trans (if_pos h)))

end

end

/-- Settles O49: each clause is one branch of its operation, the classes of the operands deciding which. -/
theorem invalidOperationAndZeroDivide : Obligations.InvalidOperationAndZeroDivide := by
  intro fmt f a b c p q v op differ qnan numbers
  refine ⟨fun o => fpArith_nanOperands o fmt f a b v, fun ha hb => ?infinities, fun num ha hb => ?left, fun num ha hb => ?right,
    fun num h => fpArith_mul_invalid num h, fun num h => fpArith_mul_infinity num h,
    fun ha hb => fpArith_div_zeros ⟨isNaN_of_isZero ha, isNaN_of_isZero hb⟩ ha hb,
    fun num inf ha hb => fpArith_zeroDivide num inf ha hb, fun sub neg => ?mulAdd,
    ⟨fpSqrt_nanOperands, fpSqrt_negative, fpSqrt_zero, fpSqrt_infinity⟩,
    ⟨fpRoundSingle_signaling, fpRoundSingle_quiet, fpRoundSingle_infinity⟩, fun word rn => ?integer, fun raw w want => ?estimates⟩
  case infinities =>
    have num : numbers := ⟨isNaN_of_isInf ha, isNaN_of_isInf hb⟩
    refine ⟨fpArith_div_infinities num ha hb, ?_, fpArith_mul_infinity num (.inl ⟨ha, isZero_of_isInf hb⟩)⟩
    by_cases unlike : signOf a = signOf b
    · rw [if_neg (by simp [differ, unlike])]
      exact ⟨fpArith_sum_left num (.inl rfl) ha fun _ => unlike, fpArith_sum_invalid num (.inr rfl) ha hb (by simp [unlike])⟩
    · rw [if_pos (by simp [differ, unlike])]
      exact ⟨fpArith_sum_invalid num (.inl rfl) ha hb unlike, fpArith_sum_left num (.inr rfl) ha fun _ => by
        rw [signOf_addend_sub, Bool.eq_not.mpr unlike]⟩
  case left =>
    have finite {P : Prop} (inf : isInf b = true) : P := by simp [hb] at inf
    exact ⟨fpArith_sum_left num (.inl rfl) ha finite, fpArith_sum_left num (.inr rfl) ha finite, fpArith_div_infinity num ha hb⟩
  case right =>
    have difference : exactInfinity (signOf (addend .sub b)) (op .sub) := fpArith_sum_right num (.inr rfl) ha hb
    rw [signOf_addend_sub] at difference
    exact ⟨fpArith_sum_right (op := .add) num (.inl rfl) ha hb, difference, fpArith_div_zero num ha hb⟩
  case mulAdd =>
    intro o times endless ps bs nan occ
    have product : productInfinite a c = endless := by simp only [productInfinite, Bool.not_or]; rfl
    have invalid : mulAddInvalid a c b (summand sub b) = occ := by rw [mulAddInvalid_summand, product]; rfl
    rw [← invalid, ← product]
    exact ⟨fpMulAdd_invalid, fpMulAdd_quiet,
      fun valid num inf => fpMulAdd_infinity valid num (mulAddSpecial_product inf _),
      fun valid num finite inf => fpMulAdd_infinity valid num (mulAddSpecial_summand finite inf)⟩
  case integer =>
    exact ⟨fun h => fpToInteger_nan word rn p q (isNaN_of_isSNaN h) (if_pos h),
      fun h => fpToInteger_nan word rn p q (isNaN_of_isQNaN h) (if_neg (by simp [isSNaN_of_isQNaN h])),
      fpToInteger_infinity word rn p q⟩
  case estimates =>
    intro r o plain
    refine ⟨fun h => ?signaling, fun h => ?quiet, fun h => ?zero, fun h => ?infinity, fun nan zero sign => ?negative⟩
    case signaling =>
      exact ⟨fpReciprocal_signaling h, fpRootReciprocal_invalid (sqrtInvalid_signaling h) (List.cons_ne_nil _ _)⟩
    case quiet =>
      rw [show r = _ from fpReciprocal_quiet h, show o = _ from fpRootReciprocal_quiet h]
      have class' (fmt : Fmt) := congrArg some (fprfOf_nan fmt (isNaN_of_isQNaN h))
      exact ⟨⟨rfl, class' .single, rfl⟩, rfl, class' .double, rfl⟩
    case zero =>
      rw [show r = _ from fpReciprocal_zero h, show o = _ from fpRootReciprocal_zero h]
      exact ⟨zeroDivide_zeroDivideOut _ _, zeroDivide_zeroDivideOut _ _⟩
    case infinity =>
      rw [show r = _ from fpReciprocal_infinity h]
      refine ⟨by cases signOf b <;> exact ⟨rfl, rfl, rfl⟩, fun sign => ?_⟩
      rw [show o = _ from fpRootReciprocal_infinity h sign]
      exact ⟨rfl, rfl, rfl⟩
    case negative =>
      rw [show qnan = quietNaN [b] from (quietNaN_of_number nan []).symm]
      exact fpRootReciprocal_invalid (sqrtInvalid_negative nan zero sign) (List.cons_ne_nil _ _)

end Sys2Proof.Machine
end

section
/-! The status of a negated result that is no number: a single-precision multiply-add of operands that the single format does not
represent (R581, R660; log 20). -/
namespace Sys2Proof.Machine

/-- With Overflow enabled, `(1.5 × 2^608) × 2^608 + 0` in single precision has its exponent adjusted by `-192` (R581). That leaves
`1.5 × 2^1024`, beyond the doubles: the biased exponent is 2047, and what is delivered is a NaN, of the class of a NaN. -/
theorem fpMulAdd_adjusted_nan (neg : Bool) :
    fpMulAdd .single false neg 0x40#32 0x65F8000000000000#64 0x65F0000000000000#64 0#64 false =
      ⟨some (if neg then 0xFFF8000000000000#64 else 0x7FF8000000000000#64), some 0b10001#5, false, false, [.ox], 0⟩ := by
  cases neg <;> decide +kernel

/-- Refutes O44: of the operands it asks only that they are finite, and in `negatedOut` it takes every delivered pattern with the
exponent 2047 for an infinity. The negated result of the multiply-add above has that exponent and the class of a NaN. No instruction
delivers it: on an operand outside the single format the result is undefined (R660; log 20). -/
theorem not_doubleResultsAreCorrectlyRounded : ¬ Obligations.DoubleResultsAreCorrectlyRounded := by
  intro h
  obtain ⟨-, -, -, -, mulAdd, -⟩ := h .single 0x40#32 0x65F8000000000000#64 0#64 0x65F0000000000000#64 0#64 false
    (by decide) (by decide) (by decide)
  obtain ⟨-, negative⟩ := mulAdd false
  simp only [fpMulAdd_adjusted_nan false, fpMulAdd_adjusted_nan true] at negative
  obtain ⟨-, -, -, delivered⟩ := negative
  obtain ⟨-, -, infinite⟩ := delivered 0x7FF8000000000000#64 rfl
  exact absurd (infinite (by decide)) (by decide)

end Sys2Proof.Machine
end

section
/-! Multiply-adds, roots, estimates, rounding and conversions: what they deliver into the registers (R568, R660 to R675, R705 to
R708). -/
namespace Sys2Proof.Machine

/-! ### The checks before an operation (R73, R209) -/

section
variable {s : State} {o : Out}

/-- In IEEE mode the check of the mode goes on to the operation (R73). -/
theorem ieee_check (ieee : s.nonIeee = false) : (if s.nonIeee then .refused .nonIeeeMode else o) = o :=
  if_neg (by simp [ieee])

/-- A facility that is present lets the instruction go on (R209). -/
theorem facility_check {present : Bool} (h : present = true) : (if !present then illegal s else o) = o := if_neg (by simp [h])

end

/-! ### Multiply-add (R660 to R668) -/

/-- Settles O47: in IEEE mode each instruction commits its operation. -/
theorem doubleMultiplyAdd : Obligations.DoubleMultiplyAdd := by
  intro s f a c b rc ieee o
  have delivered (sub neg : Bool) : fpDelivers (mulAddDouble sub neg f a c b rc s) f rc false (o sub neg) s := by
    rw [mulAddDouble, ieee_check ieee]
    exact fpDelivers_fpCommit f rc false _ s
  exact ⟨delivered false false, delivered true false, delivered false true, delivered true true⟩

/-- Settles O48: operands that the single format represents go to the operation, others to the undefined result. -/
theorem singleMultiplyAdd : Obligations.SingleMultiplyAdd := by
  intro s f a c b rc ieee o
  constructor
  · intro ha hc hb
    have delivered (sub neg : Bool) : fpDelivers (mulAddSingle sub neg f a c b rc s) f rc true (o sub neg) s := by
      rw [mulAddSingle, ieee_check ieee, if_pos (by rw [ha, hc, hb]; rfl)]
      exact fpDelivers_fpCommit f rc true _ s
    exact ⟨delivered false false, delivered true false, delivered false true, delivered true true⟩
  · intro outside
    have undefined (sub neg : Bool) : undefinedDelivers (mulAddSingle sub neg f a c b rc s) f rc (arithBits ++ [8, 11]) s := by
      rw [mulAddSingle, ieee_check ieee, if_neg (by rcases outside with h | h | h <;> simp [h])]
      exact undefinedDelivers_undefinedSingle f rc _ s (by decide)
    simp only [List.forall_mem_cons]
    exact ⟨undefined false false, undefined true false, undefined false true, undefined true true, List.forall_mem_nil _⟩

/-! ### Square root and estimates (R705 to R708) -/

/-- Settles O50: past its checks each instruction commits its operation, or its result is undefined. -/
theorem squareRootAndEstimates : Obligations.SquareRootAndEstimates := by
  intro s f b rc ieee x r q
  refine ⟨fun present => ⟨?fsqrt, fun inside => ?fsqrts, fun outside => ?undefinedRoot⟩,
    fun present => ⟨?frsqrte, fun inside => ?fres, fun outside => ?undefinedEstimate⟩⟩
  case fsqrt =>
    show fpDelivers (execFsqrt f b rc s) f rc false _ s
    rw [execFsqrt, facility_check present, ieee_check ieee]
    exact fpDelivers_fpCommit f rc false _ s
  case fsqrts =>
    show fpDelivers (execFsqrts f b rc s) f rc true _ s
    rw [execFsqrts, facility_check present, ieee_check ieee, if_pos inside]
    exact fpDelivers_fpCommit f rc true _ s
  case undefinedRoot =>
    show undefinedDelivers (execFsqrts f b rc s) f rc _ s
    rw [execFsqrts, facility_check present, ieee_check ieee, if_neg (Bool.eq_false_iff.mp outside)]
    exact undefinedDelivers_undefinedSingle f rc _ s (by decide)
  case frsqrte =>
    show fpDelivers (execFrsqrte f b rc s) f rc false q s
    rw [execFrsqrte, facility_check present, ieee_check ieee]
    exact fpDelivers_fpCommit f rc false q s
  case fres =>
    show fpDelivers (execFres f b rc s) f rc true r s
    rw [execFres, facility_check present, ieee_check ieee, if_pos inside]
    exact fpDelivers_fpCommit f rc true r s
  case undefinedEstimate =>
    show undefinedDelivers (execFres f b rc s) f rc _ s
    rw [execFres, facility_check present, ieee_check ieee, if_neg (Bool.eq_false_iff.mp outside)]
    exact undefinedDelivers_undefinedSingle f rc _ s (by decide)

/-! ### Rounding and conversion (R670 to R675) -/

/-- Settles O52: in IEEE mode each instruction commits its operation, the conversions in the rounding mode that they have. -/
theorem roundAndConvert : Obligations.RoundAndConvert := by
  intro s f b rc ieee x o
  have converted (word towardZero : Bool) :
      fpDelivers (convertOut word towardZero f b rc s) f rc false (o word (if towardZero then 1 else rnOf s.fpscr)) s := by
    rw [convertOut, ieee_check ieee]
    exact fpDelivers_fpCommit f rc false _ s
  refine ⟨?frsp, converted false false, converted false true, converted true false, converted true true, ?fcfid⟩
  case frsp =>
    show fpDelivers (execFrsp f b rc s) f rc true _ s
    rw [execFrsp, ieee_check ieee]
    exact fpDelivers_fpCommit f rc true _ s
  case fcfid =>
    show fpDelivers (execFcfid f b rc s) f rc false _ s
    rw [execFcfid, ieee_check ieee]
    exact fpDelivers_fpCommit f rc false _ s

end Sys2Proof.Machine
end

section
/-! Finite magnitudes as rational numbers: the bounds of the estimates, truncation and encoding (R531, R532, R707, R708). -/
namespace Sys2Proof.Machine

/-! ### Magnitudes as rational numbers -/

/-- The number that a magnitude is. -/
def Magnitude.value (x : Magnitude) : ℚ := x.man * 2 ^ x.exp

theorem Magnitude.value_scaled (x : Magnitude) (k : Int) : (x.scaled k).value = x.value * 2 ^ k := by
  simp only [Magnitude.value, Magnitude.scaled, zpow_add₀ (two_ne_zero' ℚ), mul_assoc]

theorem Magnitude.scaled_zero (x : Magnitude) : x.scaled 0 = x := by simp [Magnitude.scaled]

theorem withinScaled_iff (lo n hi : Nat) (k : Int) :
    withinScaled lo n hi k = true ↔ (lo : ℚ) * 2 ^ k ≤ n ∧ (n : ℚ) ≤ hi * 2 ^ k := by
  unfold withinScaled
  split
  · next nonneg =>
    lift k to ℕ using nonneg
    simp only [Bool.and_eq_true, decide_eq_true_eq, Int.toNat_natCast, zpow_natCast]
    norm_cast
  · next neg =>
    obtain ⟨j, rfl⟩ : ∃ j : ℕ, k = -j := ⟨(-k).toNat, by omega⟩
    have unit : (0 : ℚ) < 2 ^ j := by positivity
    simp only [Bool.and_eq_true, decide_eq_true_eq, neg_neg, Int.toNat_natCast, zpow_neg, zpow_natCast, ← div_eq_mul_inv,
      div_le_iff₀ unit, le_div_iff₀ unit]
    norm_cast

/-- The same with the power of 2 on the number between the bounds. -/
theorem withinScaled_neg_iff (lo n hi : Nat) (k : Int) :
    withinScaled lo n hi (-k) = true ↔ (lo : ℚ) ≤ n * 2 ^ k ∧ (n : ℚ) * 2 ^ k ≤ hi := by
  have unit : (0 : ℚ) < 2 ^ k := by positivity
  rw [withinScaled_iff, zpow_neg, ← div_eq_mul_inv, ← div_eq_mul_inv, div_le_iff₀ unit, le_div_iff₀ unit]

/-- The bound of R707 as one of rational numbers. -/
theorem goodReciprocal_iff (r x : Magnitude) :
    goodReciprocal r x = true ↔ 255 ≤ 256 * (r.value * x.value) ∧ 256 * (r.value * x.value) ≤ 257 := by
  have product : 256 * (r.value * x.value) = ((256 * (r.man * x.man) : ℕ) : ℚ) * 2 ^ (r.exp + x.exp) := by
    simp only [Magnitude.value, zpow_add₀ (two_ne_zero' ℚ)]
    push_cast
    ring
  rw [goodReciprocal, withinScaled_neg_iff, product]
  norm_cast

/-- The bound of R708 as one of rational numbers. -/
theorem goodRootReciprocal_iff (r x : Magnitude) :
    goodRootReciprocal r x = true ↔ 961 ≤ 1024 * (r.value ^ 2 * x.value) ∧ 1024 * (r.value ^ 2 * x.value) ≤ 1089 := by
  have product : 1024 * (r.value ^ 2 * x.value) = ((1024 * (r.man * r.man * x.man) : ℕ) : ℚ) * 2 ^ (2 * r.exp + x.exp) := by
    simp only [Magnitude.value, zpow_add₀ (two_ne_zero' ℚ), two_mul]
    push_cast
    ring
  rw [goodRootReciprocal, withinScaled_neg_iff, product]
  norm_cast

/-- A magnitude is no smaller than the power of 2 that its leading bit is. -/
theorem Magnitude.le_value (x : Magnitude) (h : x.man ≠ 0) : (2 : ℚ) ^ ((x.man.log2 : Int) + x.exp) ≤ x.value := by
  have lead : ((2 ^ x.man.log2 : ℕ) : ℚ) ≤ x.man := by exact_mod_cast Nat.log2_self_le h
  rw [zpow_add₀ (two_ne_zero' ℚ), zpow_natCast]
  push_cast at lead
  exact mul_le_mul_of_nonneg_right lead (by positivity)

/-! ### Truncation -/

/-- What is scaled is the integer part. -/
theorem scaleNat_bounds (n : Nat) (k : Int) : (scaleNat n k : ℚ) ≤ n * 2 ^ k ∧ n * 2 ^ k < (scaleNat n k : ℚ) + 1 := by
  unfold scaleNat
  split
  · next nonneg =>
    lift k to ℕ using nonneg
    simp
  · next neg =>
    obtain ⟨j, rfl⟩ : ∃ j : ℕ, k = -j := ⟨(-k).toNat, by omega⟩
    have unit : (0 : ℚ) < 2 ^ j := by positivity
    simp only [neg_neg, Int.toNat_natCast, zpow_neg, zpow_natCast, ← div_eq_mul_inv, div_lt_iff₀ unit, le_div_iff₀ unit]
    exact_mod_cast And.intro (Nat.div_mul_le_self n (2 ^ j)) (Nat.lt_mul_of_div_lt (Nat.lt_succ_self _) (Nat.two_pow_pos j))

/-- Truncated to a multiple of `2^e`, a magnitude loses less than that. -/
theorem Magnitude.value_scaleNat (x : Magnitude) {e k : Int} (h : k = x.exp - e) :
    (⟨scaleNat x.man k, e⟩ : Magnitude).value ≤ x.value ∧ x.value < (⟨scaleNat x.man k, e⟩ : Magnitude).value + 2 ^ e := by
  obtain ⟨lower, upper⟩ := scaleNat_bounds x.man k
  have unit : (0 : ℚ) < 2 ^ e := by positivity
  have value : x.value = x.man * 2 ^ k * 2 ^ e := by
    rw [mul_assoc, ← zpow_add₀ (two_ne_zero' ℚ), h, sub_add_cancel, Magnitude.value]
  rw [value]
  refine ⟨mul_le_mul_of_nonneg_right lower unit.le, ?_⟩
  have scaled := mul_lt_mul_of_pos_right upper unit
  rwa [add_mul, one_mul] at scaled

/-- The `t + 1` leading bits of a number, in their place. -/
def leading (t n : Nat) : Magnitude := ⟨scaleNat n ((t : Int) - n.log2), (n.log2 : Int) - t⟩

section
variable {t n : Nat} (h0 : n ≠ 0) (h : t ≤ n.log2)
include h0 h

theorem leading_man : 2 ^ t ≤ (leading t n).man ∧ (leading t n).man < 2 ^ (t + 1) := by
  have quotient : (leading t n).man = n / 2 ^ (n.log2 - t) := by
    show scaleNat n ((t : Int) - n.log2) = _
    unfold scaleNat
    split
    · next nonneg =>
      have same : n.log2 = t := by omega
      simp [same]
    · next neg =>
      congr 2
      omega
  have lower : 2 ^ t * 2 ^ (n.log2 - t) ≤ n := by
    rw [← pow_add, Nat.add_sub_cancel' h]
    exact Nat.log2_self_le h0
  have upper : n < 2 ^ (t + 1) * 2 ^ (n.log2 - t) := by
    rw [← pow_add, Nat.add_right_comm, Nat.add_sub_cancel' h]
    exact Nat.lt_log2_self
  rw [quotient]
  exact ⟨(Nat.le_div_iff_mul_le (Nat.two_pow_pos _)).mpr lower, (Nat.div_lt_iff_lt_mul (Nat.two_pow_pos _)).mpr upper⟩

theorem leading_man_ne_zero : (leading t n).man ≠ 0 := by
  obtain ⟨least, -⟩ := leading_man h0 h
  exact ((Nat.two_pow_pos t).trans_le least).ne'

theorem leading_log2 : (leading t n).man.log2 = t :=
  (Nat.log2_eq_iff (leading_man_ne_zero h0 h)).mpr (leading_man h0 h)

/-- Truncation to `t + 1` bits loses less than one part in `2^t` of what is left. -/
theorem leading_value : (leading t n).value ≤ n ∧ 2 ^ t * n < (2 ^ t + 1) * (leading t n).value := by
  obtain ⟨lower, upper⟩ := (⟨n, 0⟩ : Magnitude).value_scaleNat (k := (t : Int) - n.log2) (e := (n.log2 : Int) - t)
    (by dsimp only; omega)
  have whole : (⟨n, 0⟩ : Magnitude).value = n := by simp [Magnitude.value]
  rw [whole] at lower upper
  have lead := (leading t n).le_value (leading_man_ne_zero h0 h)
  have weight : (2 : ℚ) ^ (((leading t n).man.log2 : Int) + (leading t n).exp) = 2 ^ t * 2 ^ ((n.log2 : Int) - t) := by
    rw [leading_log2 h0 h, zpow_add₀ (two_ne_zero' ℚ), zpow_natCast]
    rfl
  rw [weight] at lead
  have scaled := mul_lt_mul_of_pos_left upper (show (0 : ℚ) < 2 ^ t by positivity)
  refine ⟨lower, scaled.trans_le ?_⟩
  rw [mul_add, add_mul, one_mul]
  exact add_le_add_right lead _

end

/-! ### Encoding (R532) -/

theorem signOf_append_parts (neg : Bool) (e : BitVec 11) (m : BitVec 52) : signOf (bit neg ++ e ++ m : DWord) = neg := by
  have he := e.isLt
  have hm := m.isLt
  rw [signOf_eq, toNat_append_parts]
  cases neg
  · rw [Bool.toNat_false]
    exact decide_eq_false (by omega)
  · rw [Bool.toNat_true]
    exact decide_eq_true (by omega)

theorem expOf_append_parts (neg : Bool) (e : BitVec 11) (m : BitVec 52) : expOf (bit neg ++ e ++ m : DWord) = e.toNat := by
  have he := e.isLt
  have hm := m.isLt
  rw [expOf_eq, toNat_append_parts]
  omega

theorem fracOf_append_parts (neg : Bool) (e : BitVec 11) (m : BitVec 52) : fracOf (bit neg ++ e ++ m : DWord) = m.toNat := by
  have hm := m.isLt
  rw [fracOf_eq, toNat_append_parts]
  omega

/-- The pattern is of the sign that is encoded. -/
theorem signOf_encode64 (neg : Bool) (man : Nat) (exp : Int) : signOf (encode64 neg man exp) = neg := by
  unfold encode64
  split
  · exact signOf_withSign _ _
  · dsimp only
    split
    · exact signOf_append_parts _ _ _
    · exact signOf_withSign _ _

/-- A number of at most 53 bits in the range of the normalized doubles is encoded exactly. -/
theorem value_encode64 (neg : Bool) {x : Magnitude} (h0 : x.man ≠ 0) (bits : x.man.log2 ≤ 52)
    (lo : -1022 ≤ (x.man.log2 : Int) + x.exp) (hi : (x.man.log2 : Int) + x.exp ≤ 1023) :
    (magOf (encode64 neg x.man x.exp)).value = x.value := by
  have lower : 2 ^ (x.man.log2 + (52 - x.man.log2)) ≤ x.man * 2 ^ (52 - x.man.log2) := by
    rw [pow_add]
    exact Nat.mul_le_mul_right _ (Nat.log2_self_le h0)
  have upper : x.man * 2 ^ (52 - x.man.log2) < 2 ^ (x.man.log2 + 1 + (52 - x.man.log2)) := by
    rw [pow_add]
    exact Nat.mul_lt_mul_of_pos_right Nat.lt_log2_self (Nat.two_pow_pos _)
  rw [show x.man.log2 + (52 - x.man.log2) = 52 by omega] at lower
  rw [show x.man.log2 + 1 + (52 - x.man.log2) = 53 by omega] at upper
  have shifted : scaleNat x.man (52 - (x.man.log2 : Int)) = x.man * 2 ^ (52 - x.man.log2) := by
    rw [scaleNat, if_pos (by omega), show (52 - (x.man.log2 : Int)).toNat = 52 - x.man.log2 by omega]
  have pattern : encode64 neg x.man x.exp = bit neg ++ BitVec.ofNat 11 ((x.man.log2 : Int) + x.exp + 1023).toNat ++
      BitVec.ofNat 52 (x.man * 2 ^ (52 - x.man.log2)) := by
    rw [← shifted]
    exact (if_neg h0).trans (if_pos lo)
  have exponent : expOf (encode64 neg x.man x.exp) = ((x.man.log2 : Int) + x.exp + 1023).toNat := by
    rw [pattern, expOf_append_parts, BitVec.toNat_ofNat]
    exact Nat.mod_eq_of_lt (by omega)
  have fraction : 2 ^ 52 + fracOf (encode64 neg x.man x.exp) = x.man * 2 ^ (52 - x.man.log2) := by
    rw [pattern, fracOf_append_parts, BitVec.toNat_ofNat]
    omega
  rw [magOf_normal (by omega), exponent, fraction, Magnitude.value]
  push_cast
  rw [mul_assoc, ← zpow_natCast, ← zpow_add₀ (two_ne_zero' ℚ), Magnitude.value]
  congr 2
  omega

/-! ### Normal magnitudes -/

theorem scaledAbs_eq_value (x : DWord) : (scaledAbs x : ℚ) = (magOf x).value * 2 ^ (1074 : Int) := by
  have least := magOf_exp_ge x
  have exponent : (((magOf x).exp + 1074).toNat : Int) = (magOf x).exp + 1074 := Int.toNat_of_nonneg (by omega)
  rw [scaledAbs, Magnitude.value, mul_assoc, ← zpow_add₀ (two_ne_zero' ℚ), ← exponent, zpow_natCast]
  push_cast
  rfl

/-- No smaller than the normalized numbers of the single format (R531). -/
theorem minNormal_single_iff (x : DWord) :
    minNormal .single ≤ (scaledValue x).natAbs ↔ (2 : ℚ) ^ (-126 : Int) ≤ (magOf x).value := by
  have unit : (0 : ℚ) < 2 ^ (1074 : Int) := by positivity
  have least : ((minNormal .single : ℕ) : ℚ) = 2 ^ (-126 : Int) * 2 ^ (1074 : Int) := by
    rw [← zpow_add₀ (two_ne_zero' ℚ), show (-126 : Int) + 1074 = (948 : ℕ) from rfl, zpow_natCast]
    exact Nat.cast_pow 2 948
  rw [scaledValue_eq_signed, natAbs_signed, ← mul_le_mul_iff_of_pos_right unit, ← scaledAbs_eq_value, ← least]
  exact Nat.cast_le.symm

end Sys2Proof.Machine
end

section
/-! The reciprocal and the reciprocal square root that are computed are within the bounds of the estimates (R707, R708). -/
namespace Sys2Proof.Machine

/-! ### The truncated reciprocal (R707) -/

theorem reciprocalOf_eq (x : Magnitude) : reciprocalOf x =
    ⟨(leading 23 (2 ^ 120 / x.man)).man, (leading 23 (2 ^ 120 / x.man)).exp - 120 - x.exp⟩ := by
  simp only [reciprocalOf, leading, Magnitude.mk.injEq]
  exact ⟨rfl, by push_cast; ring⟩

/-- The product with the operand, as that of the truncated quotient with the operand's integer. -/
theorem reciprocalOf_mul_value (x : Magnitude) :
    (reciprocalOf x).value * x.value = (leading 23 (2 ^ 120 / x.man)).value * x.man / 2 ^ 120 := by
  have exponents : (2 : ℚ) ^ (reciprocalOf x).exp * 2 ^ x.exp = 2 ^ (leading 23 (2 ^ 120 / x.man)).exp / 2 ^ 120 := by
    rw [← zpow_add₀ (two_ne_zero' ℚ), ← zpow_natCast, ← zpow_sub₀ (two_ne_zero' ℚ), reciprocalOf_eq]
    congr 1
    push_cast
    ring
  rw [Magnitude.value, Magnitude.value, mul_mul_mul_comm, exponents, reciprocalOf_eq, Magnitude.value]
  ring

section
variable {x : Magnitude} (lo : 2 ^ 52 ≤ x.man) (hi : x.man < 2 ^ 53)
include lo hi

/-- The place of the quotient's leading bit, which a power of 2 moves up. -/
theorem log2_quotient : x.man = 2 ^ 52 ∧ (2 ^ 120 / x.man).log2 = 68 ∨ 2 ^ 52 < x.man ∧ (2 ^ 120 / x.man).log2 = 67 := by
  rcases lo.eq_or_lt with power | above
  · refine .inl ⟨power.symm, ?_⟩
    rw [← power]
    decide
  · have least : 2 ^ 67 ≤ 2 ^ 120 / x.man := (Nat.le_div_iff_mul_le (by omega)).mpr (by omega)
    have most : 2 ^ 120 / x.man < 2 ^ 68 := (Nat.div_lt_iff_lt_mul (by omega)).mpr (by omega)
    exact .inr ⟨above, (Nat.log2_eq_iff (by omega)).mpr ⟨least, most⟩⟩

theorem quotient_ne_zero : 2 ^ 120 / x.man ≠ 0 := (Nat.div_pos (by omega) (by omega)).ne'

theorem reciprocalOf_exp : x.man = 2 ^ 52 ∧ (reciprocalOf x).exp = -75 - x.exp ∨
    2 ^ 52 < x.man ∧ (reciprocalOf x).exp = -76 - x.exp := by
  rw [reciprocalOf_eq]
  dsimp only [leading]
  rcases log2_quotient lo hi with ⟨man, place⟩ | ⟨man, place⟩ <;> rw [place] <;> omega

theorem reciprocalOf_log2 : (reciprocalOf x).man.log2 = 23 := by
  have place := log2_quotient lo hi
  rw [reciprocalOf_eq]
  exact leading_log2 (quotient_ne_zero lo hi) (by omega)

/-- Of the reciprocal, the truncations lose at most one part in `2^22`. -/
theorem reciprocalOf_value : 1 - 1 / 2 ^ 22 ≤ (reciprocalOf x).value * x.value ∧ (reciprocalOf x).value * x.value ≤ 1 := by
  have place := log2_quotient lo hi
  obtain ⟨truncated, lost⟩ := leading_value (quotient_ne_zero lo hi) (t := 23) (by omega)
  have quotient : ((2 ^ 120 / x.man : ℕ) : ℚ) * x.man ≤ 2 ^ 120 := by exact_mod_cast Nat.div_mul_le_self _ _
  have next : (2 ^ 120 : ℚ) < ((2 ^ 120 / x.man : ℕ) + 1) * x.man := by
    exact_mod_cast Nat.lt_mul_of_div_lt (Nat.lt_succ_self _) (by omega)
  have bound : (x.man : ℚ) < 2 ^ 53 := by exact_mod_cast hi
  have positive : (0 : ℚ) < x.man := by exact_mod_cast (show 0 < x.man by omega)
  have truncated' := mul_le_mul_of_nonneg_right truncated positive.le
  have lost' := mul_lt_mul_of_pos_right lost positive
  rw [reciprocalOf_mul_value, le_div_iff₀ (by positivity), div_le_iff₀ (by positivity)]
  constructor <;> linarith

end

/-! ### The truncated reciprocal of the square root (R708) -/

/-- Digit by digit the integer square root is found. -/
theorem isqrt_eq_sqrt {k n : Nat} (h : n < 4 ^ k) : isqrt k n = n.sqrt := by
  induction k generalizing n with
  | zero => rw [show n = 0 by omega]; rfl
  | succ k ih =>
    have quarter : isqrt k (n / 4) = (n / 4).sqrt := ih (by omega)
    have lower := Nat.sqrt_le (n / 4)
    have upper := Nat.lt_succ_sqrt (n / 4)
    simp only [isqrt, quarter]
    split <;> exact Nat.eq_sqrt.mpr ⟨by grind, by grind⟩

theorem evenExp_even (x : Magnitude) : (evenExp x).exp % 2 = 0 := by
  unfold evenExp
  split
  · assumption
  · dsimp only
    omega

theorem evenExp_value (x : Magnitude) : (evenExp x).value = x.value := by
  unfold evenExp
  split
  · rfl
  · simp only [Magnitude.value, zpow_sub_one₀ (two_ne_zero' ℚ)]
    push_cast
    ring

/-- The integer root of which the leading bits are taken. -/
def quotientRoot (x : Magnitude) : Nat := (2 ^ 240 / (evenExp x).man).sqrt

theorem rootReciprocalOf_eq (x : Magnitude) : rootReciprocalOf x =
    ⟨(leading 52 (quotientRoot x)).man, (leading 52 (quotientRoot x)).exp + (-240 - (evenExp x).exp) / 2⟩ := by
  have root : isqrt 130 (2 ^ 240 / (evenExp x).man) = quotientRoot x :=
    isqrt_eq_sqrt ((Nat.div_le_self _ _).trans_lt (by decide))
  simp only [rootReciprocalOf, root, leading, Magnitude.mk.injEq]
  exact ⟨rfl, by push_cast; ring⟩

/-- The product of the square with the operand, as that of the square of the truncated root with the operand's integer. -/
theorem rootReciprocalOf_sq_mul_value (x : Magnitude) : (rootReciprocalOf x).value ^ 2 * x.value =
    (leading 52 (quotientRoot x)).value ^ 2 * (evenExp x).man / 2 ^ 240 := by
  have even := evenExp_even x
  have exponents : ((2 : ℚ) ^ (rootReciprocalOf x).exp) ^ 2 * 2 ^ (evenExp x).exp =
      (2 ^ (leading 52 (quotientRoot x)).exp) ^ 2 / 2 ^ 240 := by
    simp only [← zpow_natCast, ← zpow_mul, ← zpow_add₀ (two_ne_zero' ℚ), ← zpow_sub₀ (two_ne_zero' ℚ)]
    congr 1
    rw [rootReciprocalOf_eq]
    push_cast
    omega
  rw [← evenExp_value x, Magnitude.value, Magnitude.value, mul_pow, mul_mul_mul_comm, exponents, rootReciprocalOf_eq,
    Magnitude.value]
  ring

section
variable {x : Magnitude} (pos : 0 < x.man) (hi : x.man < 2 ^ 53)
include pos hi

theorem evenExp_man : 0 < (evenExp x).man ∧ (evenExp x).man < 2 ^ 54 := by
  unfold evenExp
  split
  · omega
  · dsimp only
    omega

theorem quotientRoot_bounds : 2 ^ 93 ≤ quotientRoot x ∧ quotientRoot x < 2 ^ 121 := by
  obtain ⟨positive, bound⟩ := evenExp_man pos hi
  exact ⟨Nat.le_sqrt.mpr ((Nat.le_div_iff_mul_le positive).mpr (by omega)),
    Nat.sqrt_lt.mpr ((Nat.div_le_self _ _).trans_lt (by decide))⟩

theorem quotientRoot_log2 : 93 ≤ (quotientRoot x).log2 ∧ (quotientRoot x).log2 ≤ 120 := by
  obtain ⟨least, most⟩ := quotientRoot_bounds pos hi
  exact ⟨(Nat.le_log2 (by omega)).mpr least, Nat.lt_succ_iff.mp ((Nat.log2_lt (by omega)).mpr most)⟩

theorem rootReciprocalOf_log2 : (rootReciprocalOf x).man.log2 = 52 := by
  obtain ⟨least, -⟩ := quotientRoot_bounds pos hi
  obtain ⟨place, -⟩ := quotientRoot_log2 pos hi
  rw [rootReciprocalOf_eq]
  exact leading_log2 (by omega) (by omega)

theorem rootReciprocalOf_exp (least : -1074 ≤ x.exp) (most : x.exp ≤ 971) :
    -1074 ≤ (rootReciprocalOf x).exp ∧ (rootReciprocalOf x).exp ≤ 971 := by
  have place := quotientRoot_log2 pos hi
  have exponent : x.exp - 1 ≤ (evenExp x).exp ∧ (evenExp x).exp ≤ x.exp := by
    unfold evenExp
    split
    · omega
    · dsimp only
      omega
  rw [rootReciprocalOf_eq]
  dsimp only [leading]
  omega

/-- The truncations, of the quotient, of the root and of its bits, together lose little. -/
theorem rootReciprocalOf_value : 961 / 1024 ≤ (rootReciprocalOf x).value ^ 2 * x.value ∧
    (rootReciprocalOf x).value ^ 2 * x.value ≤ 1 := by
  obtain ⟨least, -⟩ := quotientRoot_bounds pos hi
  obtain ⟨place, -⟩ := quotientRoot_log2 pos hi
  obtain ⟨positive, -⟩ := evenExp_man pos hi
  obtain ⟨truncated, lost⟩ := leading_value (n := quotientRoot x) (t := 52) (by omega) (by omega)
  have square : (quotientRoot x : ℚ) ^ 2 * (evenExp x).man ≤ 2 ^ 240 := by
    exact_mod_cast (Nat.mul_le_mul_right _ (Nat.sqrt_le' _)).trans (Nat.div_mul_le_self (2 ^ 240) (evenExp x).man)
  have next : (2 : ℚ) ^ 240 < (quotientRoot x + 1) ^ 2 * (evenExp x).man := by
    exact_mod_cast (Nat.div_lt_iff_lt_mul positive).mp (Nat.lt_succ_sqrt' (2 ^ 240 / (evenExp x).man))
  have least' : (2 : ℚ) ^ 93 ≤ quotientRoot x := by exact_mod_cast least
  have close : 31 * ((quotientRoot x : ℚ) + 1) ≤ 32 * (leading 52 (quotientRoot x)).value := by linarith
  have lower := mul_le_mul_of_nonneg_right (pow_le_pow_left₀ (by positivity) close 2) (Nat.cast_nonneg (evenExp x).man)
  have upper := mul_le_mul_of_nonneg_right (pow_le_pow_left₀ (by linarith) truncated 2) (Nat.cast_nonneg (evenExp x).man)
  rw [rootReciprocalOf_sq_mul_value, le_div_iff₀ (by positivity), div_le_iff₀ (by positivity)]
  constructor <;> linarith

end

end Sys2Proof.Machine
end

section
/-! The estimates: the legal values, what stands in for another value, and the bounds (R581 to R586, R707, R708). -/
namespace Sys2Proof.Machine

/-! ### The magnitudes of doubles (R532) -/

/-- A number that is neither a NaN nor an infinity has an exponent below theirs. -/
theorem expOf_of_number {x : DWord} (nan : isNaN x = false) (inf : isInf x = false) : expOf x < 2047 := by
  have exp := expOf_lt x
  by_contra special
  have top : expOf x = 2047 := by omega
  by_cases frac : fracOf x = 0 <;> simp [isNaN, isInf, top, frac] at nan inf

/-- The magnitude of a nonzero double that is neither a NaN nor an infinity. -/
theorem magOf_finite {x : DWord} (finite : expOf x < 2047) (zero : isZero x = false) :
    0 < (magOf x).man ∧ (magOf x).man < 2 ^ 53 ∧ -1074 ≤ (magOf x).exp ∧ (magOf x).exp ≤ 971 := by
  have frac := fracOf_lt x
  by_cases h : expOf x = 0
  · have nonzero : fracOf x ≠ 0 := by simpa [isZero, h] using zero
    rw [magOf_denormal h]
    dsimp only
    omega
  · rw [magOf_normal h]
    dsimp only
    omega

theorem ne_zero_of_log2 {n t : Nat} (h : n.log2 = t) (ht : 0 < t) : n ≠ 0 := by
  rintro rfl
  rw [Nat.log2_zero] at h
  omega

/-- The truncated reciprocal of a normalized double: 24 bits, with the next exponent for a power of 2. -/
theorem reciprocalOf_magOf {b : DWord} (h : expOf b ≠ 0) :
    (reciprocalOf (magOf b)).man ≠ 0 ∧ (reciprocalOf (magOf b)).man.log2 = 23 ∧
      (fracOf b = 0 ∧ (reciprocalOf (magOf b)).exp = 1000 - expOf b ∨
        fracOf b ≠ 0 ∧ (reciprocalOf (magOf b)).exp = 999 - expOf b) := by
  have frac := fracOf_lt b
  rw [magOf_normal h]
  have lead := reciprocalOf_log2 (x := ⟨2 ^ 52 + fracOf b, expOf b - 1075⟩) (by dsimp only; omega) (by dsimp only; omega)
  have exponent := reciprocalOf_exp (x := ⟨2 ^ 52 + fracOf b, expOf b - 1075⟩) (by dsimp only; omega) (by dsimp only; omega)
  exact ⟨ne_zero_of_log2 lead (by omega), lead, by dsimp only at exponent; omega⟩

theorem reciprocalOf_magOf_value {b : DWord} (h : expOf b ≠ 0) :
    1 - 1 / 2 ^ 22 ≤ (reciprocalOf (magOf b)).value * (magOf b).value ∧
      (reciprocalOf (magOf b)).value * (magOf b).value ≤ 1 := by
  have frac := fracOf_lt b
  rw [magOf_normal h]
  exact reciprocalOf_value (by dsimp only; omega) (by dsimp only; omega)

/-! ### The reciprocal estimate: what is legal (R707) -/

section
variable {f : Word} {b raw : DWord} {k : Int}

/-- What a legal value is, of which the model asks more. -/
theorem legalEstimate_spec (h : legalEstimate raw b k = true) :
    isZero raw = false ∧ signOf raw = signOf b ∧ goodReciprocal ((magOf raw).scaled k) (magOf b) = true := by
  simp only [legalEstimate, finiteOfSign, Bool.and_eq_true, Bool.not_eq_true', beq_iff_eq] at h
  obtain ⟨⟨⟨⟨-, zero⟩, sign⟩, -⟩, good⟩ := h
  exact ⟨zero, sign, good⟩

theorem plainLegal_spec (h : plainLegal f raw b = true) :
    legalEstimate raw b 0 = true ∧ (bitAt f 26 = true → belowSingleNormal raw = false) := by
  simp only [plainLegal, Bool.and_eq_true, Bool.not_eq_true', Bool.and_eq_false_iff] at h
  obtain ⟨legal, normal⟩ := h
  refine ⟨legal, fun enabled => ?_⟩
  simpa [enabled] using normal

theorem normal_of_not_belowSingleNormal (zero : isZero raw = false) (above : belowSingleNormal raw = false) :
    minNormal .single ≤ (scaledValue raw).natAbs := by
  have exponent : 897 ≤ expOf raw := by simpa [belowSingleNormal, zero] using above
  have lead := log2_hidden (fracOf_lt raw)
  refine (minNormal_single_iff raw).mpr ?_
  rw [magOf_normal (by omega)]
  refine le_trans ?_ (Magnitude.le_value _ (by dsimp only; omega))
  exact zpow_le_zpow_right₀ one_le_two (by dsimp only; omega)

/-- With Underflow enabled a value delivered as it is is of normal magnitude (R585). -/
theorem plainLegal_normal (h : plainLegal f raw b = true) (enabled : bitAt f 26 = true) :
    minNormal .single ≤ (scaledValue raw).natAbs := by
  obtain ⟨legal, above⟩ := plainLegal_spec h
  obtain ⟨zero, -, -⟩ := legalEstimate_spec legal
  exact normal_of_not_belowSingleNormal zero (above enabled)

theorem plainLegal_good (h : plainLegal f raw b = true) : goodReciprocal ((magOf raw).scaled 0) (magOf b) = true := by
  obtain ⟨legal, -⟩ := plainLegal_spec h
  obtain ⟨-, -, good⟩ := legalEstimate_spec legal
  exact good

theorem plainLegal_signOf (h : plainLegal f raw b = true) : signOf raw = signOf b := by
  obtain ⟨legal, -⟩ := plainLegal_spec h
  obtain ⟨-, sign, -⟩ := legalEstimate_spec legal
  exact sign

/-! ### The estimate adjusted (R581, R586) -/

theorem signOf_adjustedEstimate : signOf (adjustedEstimate raw b k) = signOf b := by
  unfold adjustedEstimate
  split
  · next legal =>
    obtain ⟨-, sign, -⟩ := legalEstimate_spec legal
    exact sign
  · exact signOf_encode64 _ _ _

/-- Adjusted back, the estimate is within the bound. -/
theorem adjustedEstimate_good (lo : 874 ≤ expOf b) (hi : expOf b ≤ 1150) (least : -192 ≤ k) (most : k ≤ 192) :
    goodReciprocal ((magOf (adjustedEstimate raw b k)).scaled (-k)) (magOf b) = true := by
  unfold adjustedEstimate
  split
  · next legal =>
    obtain ⟨-, -, good⟩ := legalEstimate_spec legal
    exact good
  · obtain ⟨nonzero, lead, exponent⟩ := reciprocalOf_magOf (b := b) (by omega)
    obtain ⟨lower, upper⟩ := reciprocalOf_magOf_value (b := b) (by omega)
    have encoded : (magOf (encode64 (signOf b) ((reciprocalOf (magOf b)).scaled k).man
        ((reciprocalOf (magOf b)).scaled k).exp)).value = ((reciprocalOf (magOf b)).scaled k).value := by
      refine value_encode64 _ nonzero ?_ ?_ ?_ <;> dsimp only [Magnitude.scaled] <;> omega
    have back : ((magOf (encode64 (signOf b) ((reciprocalOf (magOf b)).scaled k).man
        ((reciprocalOf (magOf b)).scaled k).exp)).scaled (-k)).value = (reciprocalOf (magOf b)).value := by
      rw [Magnitude.value_scaled, encoded, Magnitude.value_scaled, mul_assoc, ← zpow_add₀ (two_ne_zero' ℚ), add_neg_cancel,
        zpow_zero, mul_one]
    rw [goodReciprocal_iff, back]
    constructor <;> linarith

/-! ### The estimate not adjusted (R707) -/

/-- The reciprocal truncated to the single format's numbers. -/
def truncatedEstimate (b : DWord) : DWord :=
  let r := reciprocalOf (magOf b)
  if 127 < (r.man.log2 : Int) + r.exp then maxFinite .single (signOf b)
  else if (r.man.log2 : Int) + r.exp < -126 then encode64 (signOf b) (scaleNat r.man (r.exp + 149)) (-149)
  else encode64 (signOf b) r.man r.exp

theorem plainEstimate_eq : plainEstimate f raw b = if plainLegal f raw b then raw else truncatedEstimate b := rfl

theorem signOf_truncatedEstimate : signOf (truncatedEstimate b) = signOf b := by
  unfold truncatedEstimate
  dsimp only
  split
  · exact signOf_withSign _ _
  · split <;> exact signOf_encode64 _ _ _

theorem magOf_maxFinite_single (neg : Bool) : magOf (maxFinite .single neg) = ⟨2 ^ 53 - 2 ^ 29, 75⟩ := by
  cases neg <;> decide

/-- Just below the normalized numbers of the single format at most two more of the 24 bits are lost. -/
theorem value_encode64_tiny (neg : Bool) {r : Magnitude} (nonzero : r.man ≠ 0) (lead : r.man.log2 = 23) (lo : -151 ≤ r.exp)
    (hi : r.exp < -149) :
    (magOf (encode64 neg (scaleNat r.man (r.exp + 149)) (-149))).value ≤ r.value ∧
      (2 ^ 21 - 1) * r.value < 2 ^ 21 * (magOf (encode64 neg (scaleNat r.man (r.exp + 149)) (-149))).value := by
  obtain ⟨lower, upper⟩ := r.value_scaleNat (e := -149) (k := r.exp + 149) (by omega)
  have large : (2 : ℚ) ^ (-128 : Int) ≤ r.value :=
    le_trans (zpow_le_zpow_right₀ one_le_two (by omega)) (r.le_value nonzero)
  have weight : (2 : ℚ) ^ (-128 : Int) = 2 ^ 21 * 2 ^ (-149 : Int) := by norm_num
  have small : 2 ^ 21 * (2 : ℚ) ^ (-149 : Int) ≤ r.value := weight ▸ large
  have positive : 0 < r.value := lt_of_lt_of_le (by positivity) large
  have close : (2 ^ 21 - 1) * r.value < 2 ^ 21 * (⟨scaleNat r.man (r.exp + 149), -149⟩ : Magnitude).value := by linarith
  have kept : scaleNat r.man (r.exp + 149) ≠ 0 := by
    intro zero
    have none_left : (⟨scaleNat r.man (r.exp + 149), -149⟩ : Magnitude).value = 0 := by simp [Magnitude.value, zero]
    rw [none_left] at close
    linarith
  have short : scaleNat r.man (r.exp + 149) ≤ r.man := by
    rw [scaleNat, if_neg (by omega)]
    exact Nat.div_le_self _ _
  have bits : (scaleNat r.man (r.exp + 149)).log2 < 24 :=
    (Nat.log2_lt kept).mpr (short.trans_lt (lt_of_lt_of_eq Nat.lt_log2_self (by rw [lead])))
  have encoded := value_encode64 neg (x := ⟨scaleNat r.man (r.exp + 149), -149⟩) kept (Nat.le_of_lt (bits.trans (by decide)))
    (by dsimp only; omega) (by dsimp only; omega)
  dsimp only at encoded
  rw [encoded]
  exact ⟨lower, close⟩

/-- From `2^-128` on to below `2^128` the truncated value is within the bound. -/
theorem truncatedEstimate_good (lo : 895 ≤ expOf b) (hi : expOf b ≤ 1150) :
    goodReciprocal (magOf (truncatedEstimate b)) (magOf b) = true := by
  obtain ⟨nonzero, lead, exponent⟩ := reciprocalOf_magOf (b := b) (by omega)
  obtain ⟨lower, upper⟩ := reciprocalOf_magOf_value (b := b) (by omega)
  rw [goodReciprocal_iff]
  unfold truncatedEstimate
  dsimp only
  split
  · next large =>
    obtain ⟨power, least⟩ : fracOf b = 0 ∧ expOf b = 895 := by omega
    rw [magOf_maxFinite_single, magOf_normal (by omega), power, least]
    norm_num [Magnitude.value]
  · split
    · next small =>
      obtain ⟨below, close⟩ := value_encode64_tiny (signOf b) nonzero lead (by omega) (by omega)
      have positive : 0 ≤ (magOf b).value := by unfold Magnitude.value; positivity
      have below' := mul_le_mul_of_nonneg_right below positive
      have close' := mul_le_mul_of_nonneg_right close.le positive
      constructor <;> linarith
    · rw [value_encode64 _ nonzero (by omega) (by omega) (by omega)]
      constructor <;> linarith

/-- The reciprocal of a magnitude of at most `2^126` is truncated to a normalized number. -/
theorem truncatedEstimate_normal (lo : 895 ≤ expOf b) (hi : expOf b < 1149 ∨ expOf b = 1149 ∧ fracOf b = 0) :
    minNormal .single ≤ (scaledValue (truncatedEstimate b)).natAbs := by
  obtain ⟨nonzero, lead, exponent⟩ := reciprocalOf_magOf (b := b) (by omega)
  rw [minNormal_single_iff]
  unfold truncatedEstimate
  dsimp only
  split
  · rw [magOf_maxFinite_single]
    norm_num [Magnitude.value]
  · rw [if_neg (by omega), value_encode64 _ nonzero (by omega) (by omega) (by omega)]
    exact le_trans (zpow_le_zpow_right₀ one_le_two (by omega)) ((reciprocalOf (magOf b)).le_value nonzero)

theorem signOf_plainEstimate : signOf (plainEstimate f raw b) = signOf b := by
  rw [plainEstimate_eq]
  split
  · next legal => exact plainLegal_signOf legal
  · exact signOf_truncatedEstimate

theorem plainEstimate_good (lo : 895 ≤ expOf b) (hi : expOf b ≤ 1150) :
    goodReciprocal ((magOf (plainEstimate f raw b)).scaled 0) (magOf b) = true := by
  rw [plainEstimate_eq]
  split
  · next legal => exact plainLegal_good legal
  · rw [Magnitude.scaled_zero]
    exact truncatedEstimate_good lo hi

/-- In the range, an estimate delivered with Underflow enabled is no smaller than the normalized numbers (R585). -/
theorem plainEstimate_normal (lo : 895 ≤ expOf b) (hi : expOf b < 1149 ∨ expOf b = 1149 ∧ fracOf b = 0)
    (enabled : bitAt f 26 = true) : minNormal .single ≤ (scaledValue (plainEstimate f raw b)).natAbs := by
  rw [plainEstimate_eq]
  split
  · next legal => exact plainLegal_normal legal enabled
  · exact truncatedEstimate_normal lo hi

/-! ### The reciprocal estimate (R707) -/

variable {ox ux : Bool}

/-- What a disabled Overflow delivers (R582). -/
theorem overflowDefault_single (rn : BitVec 2) (neg : Bool) : overflowDefault .single neg rn = beyond .single rn neg := by
  revert rn
  cases neg <;> decide

theorem signOf_overflowDefault (fmt : Fmt) (neg : Bool) (rn : BitVec 2) : signOf (overflowDefault fmt neg rn) = neg := by
  unfold overflowDefault
  split
  · exact signOf_withSign _ _
  · cases fmt <;> exact signOf_withSign _ _

/-- Below `2^-128` the reciprocal is beyond the single format (R581, R582). -/
theorem reciprocalEstimate_small (h : expOf b < 895) : reciprocalEstimate f b raw ox ux =
    if legalEstimate raw b 0 && !ox then (raw, [])
    else if bitAt f 25 then (adjustedEstimate raw b (-192), [.ox])
    else (beyond .single (fld f 30 2) (signOf b), [.ox]) := by
  rw [← overflowDefault_single]
  exact if_pos h

theorem reciprocalEstimate_inRange (lo : 895 ≤ expOf b) (hi : expOf b < 1149 ∨ expOf b = 1149 ∧ fracOf b = 0) :
    reciprocalEstimate f b raw ox ux = (plainEstimate f raw b, []) :=
  (if_neg (by omega)).trans (if_neg (by omega))

/-- Above `2^126` the reciprocal is below the normalized numbers of the single format (R585, R586). -/
theorem reciprocalEstimate_large (h : 1149 < expOf b ∨ expOf b = 1149 ∧ fracOf b ≠ 0) : reciprocalEstimate f b raw ox ux =
    if bitAt f 26 then (if plainLegal f raw b && !ux then (raw, []) else (adjustedEstimate raw b 192, [.ux]))
    else (plainEstimate f raw b, if ux then [.ux] else []) :=
  (if_neg (by omega)).trans (if_pos h)

theorem signOf_reciprocalEstimate : signOf (reciprocalEstimate f b raw ox ux).1 = signOf b := by
  rcases lt_or_ge (expOf b) 895 with small | lo
  · rw [reciprocalEstimate_small small, ← overflowDefault_single]
    split
    · next legal =>
      obtain ⟨legal, -⟩ := Bool.and_eq_true_iff.mp legal
      obtain ⟨-, sign, -⟩ := legalEstimate_spec legal
      exact sign
    · split
      · exact signOf_adjustedEstimate
      · exact signOf_overflowDefault _ _ _
  · by_cases large : 1149 < expOf b ∨ expOf b = 1149 ∧ fracOf b ≠ 0
    · rw [reciprocalEstimate_large large]
      split
      · split
        · next legal =>
          obtain ⟨legal, -⟩ := Bool.and_eq_true_iff.mp legal
          exact plainLegal_signOf legal
        · exact signOf_adjustedEstimate
      · exact signOf_plainEstimate
    · rw [reciprocalEstimate_inRange lo (by omega)]
      exact signOf_plainEstimate

end

/-! ### The reciprocal square root estimate (R708) -/

theorem rootReciprocalEstimate_good {b raw : DWord} (finite : expOf b < 2047) (zero : isZero b = false) :
    goodRootReciprocal (magOf (rootReciprocalEstimate b raw)) (magOf b) = true := by
  unfold rootReciprocalEstimate
  split
  · next legal =>
    obtain ⟨-, good⟩ := Bool.and_eq_true_iff.mp legal
    exact good
  · obtain ⟨positive, bits, least, most⟩ := magOf_finite finite zero
    have lead := rootReciprocalOf_log2 positive bits
    have exponent := rootReciprocalOf_exp positive bits least most
    obtain ⟨lower, upper⟩ := rootReciprocalOf_value positive bits
    dsimp only
    rw [goodRootReciprocal_iff, value_encode64 _ (ne_zero_of_log2 lead (by omega)) (by omega) (by omega) (by omega)]
    constructor <;> linarith

theorem signOf_rootReciprocalEstimate (b raw : DWord) : signOf (rootReciprocalEstimate b raw) = false := by
  unfold rootReciprocalEstimate
  split
  · next legal =>
    simp only [finiteOfSign, Bool.and_eq_true, beq_iff_eq] at legal
    obtain ⟨⟨-, sign⟩, -⟩ := legal
    exact sign
  · exact signOf_encode64 _ _ _

/-- Settles O51: a legal value is taken as it is, and what stands in for another is the truncated reciprocal, which is within the
bound. -/
theorem estimatesAreWithinTheirBounds : Obligations.EstimatesAreWithinTheirBounds := by
  intro f b raw ox ux nan inf zero r occ good normal
  refine ⟨fun _ _ => signOf_reciprocalEstimate, fun lo hi => ?inRange, fun small lo => ?small, fun large hi => ?large,
    fun _ => ⟨rootReciprocalEstimate_good (expOf_of_number nan inf) zero, signOf_rootReciprocalEstimate b raw⟩⟩
  case inRange =>
    simp only [good, normal, occ, r, reciprocalEstimate_inRange lo hi]
    exact ⟨plainEstimate_good lo (by omega), trivial, plainEstimate_normal lo hi⟩
  case small =>
    simp only [good, occ, r, reciprocalEstimate_small small]
    split
    · next legal =>
      obtain ⟨legal, -⟩ := Bool.and_eq_true_iff.mp legal
      obtain ⟨-, -, bound⟩ := legalEstimate_spec legal
      exact .inl ⟨rfl, bound⟩
    · split
      · next enabled => exact .inr ⟨rfl, adjustedEstimate_good lo (by omega) (by omega) (by omega)⟩
      · next disabled => exact .inr ⟨rfl, rfl⟩
  case large =>
    simp only [good, normal, occ, r, reciprocalEstimate_large large]
    split
    · next enabled =>
      split
      · next legal =>
        obtain ⟨legal, -⟩ := Bool.and_eq_true_iff.mp legal
        exact .inl ⟨rfl, plainLegal_good legal, plainLegal_normal legal enabled⟩
      · exact .inr ⟨rfl, adjustedEstimate_good (by omega) hi (by omega) (by omega)⟩
    · exact ⟨plainEstimate_good (by omega) hi, by cases ux <;> simp⟩

end Sys2Proof.Machine
end

section
/-! The Branch Processor: branches and their links, system call, and the Condition Register instructions (R220 to R249). -/
namespace Sys2Proof.Machine

/-! ### The count and the condition (R222, R226, R231) -/

theorem State.unsignedLow_of_mode64 {s : State} (h : s.params.mode64 = true) (x : DWord) : s.unsignedLow x = x.toNat := by
  rw [State.unsignedLow, State.width, if_pos h, Nat.mod_eq_of_lt x.isLt]

theorem State.unsignedLow_of_mode32 {s : State} (h : s.params.mode64 = false) (x : DWord) :
    s.unsignedLow x = (loWord x).toNat := by
  rw [State.unsignedLow, State.width, if_neg (by simp [h]), loWord, BitVec.toNat_setWidth]

theorem beq_zero_eq_decide_toNat {w : Nat} (x : BitVec w) : (x == 0) = decide (x.toNat = 0) := by
  simp [Bool.beq_eq_decide_eq, ← BitVec.toNat_inj]

section
variable (s : State) (v : DWord) (bo : BitVec 5) (bi : BitNum)

/-- The decrement as one update, whether BO[2] asks for it or not. -/
theorem State.decremented_eq : s.decremented bo = s.setCtr (if bitAt bo 2 then s.ctr else s.ctr - 1) := by
  unfold State.decremented
  split <;> rfl

/-- The count is zero when its low-order bits of the mode are, as a number (R45, R222). -/
theorem State.ctrZero_eq : s.ctrZero = decide (s.unsignedLow s.ctr = 0) := by
  cases mode : s.params.mode64 with
  | true => rw [State.ctrZero, if_pos mode, State.unsignedLow_of_mode64 mode, beq_zero_eq_decide_toNat]
  | false => rw [State.ctrZero, if_neg (by simp [mode]), State.unsignedLow_of_mode32 mode, beq_zero_eq_decide_toNat]

theorem State.ctrOk_setCtr :
    (s.setCtr v).ctrOk bo = (bitAt bo 2 || (decide (s.unsignedLow v ≠ 0) != bitAt bo 3)) := by
  have zero : (s.setCtr v).ctrZero = decide (s.unsignedLow v = 0) := State.ctrZero_eq _
  rw [State.ctrOk, zero, ← decide_not, Bool.bne_eq_xor]

theorem State.condOk_setCtr : (s.setCtr v).condOk bo bi = s.condOk bo bi := rfl

end

/-! ### Link and target (R221, R225) -/

/-- A displacement counts from the branch, an absolute target from 0. -/
theorem State.branchTarget_branchOffset {w : Nat} (s : State) (x : BitVec w) (aa : Bool) :
    s.branchTarget (branchOffset x) aa = (if aa then 0 else s.pc) + (x ++ 0#2).signExtend 64 := by
  cases aa with
  | true => exact (BitVec.zero_add _).symm
  | false => rfl

section
variable {c : Changes} {s d : State}

theorem Leaves.linkIf (h : Leaves c s d) {lk : Bool} (listed : lk = true → c.lr = true) : Leaves c s (d.linkIf lk) := by
  unfold State.linkIf
  split
  · next link => exact h.setLr _ (listed link)
  · exact h

theorem Leaves.branchIf (h : Leaves c s d) (taken : Bool) (target : DWord) : Leaves c s (d.branchIf taken target) := by
  unfold State.branchIf
  split
  · exact h.setPc _
  · exact h.advance

end

section
variable (s : State) (lk taken : Bool) (target : DWord)

@[simp] theorem State.linkIf_ctr : (s.linkIf lk).ctr = s.ctr := by
  unfold State.linkIf
  split <;> rfl

@[simp] theorem State.linkIf_iea (x : DWord) : (s.linkIf lk).iea x = s.iea x := by
  unfold State.linkIf
  split <;> rfl

@[simp] theorem State.linkIf_nextPc : (s.linkIf lk).nextPc = s.nextPc := by
  unfold State.linkIf
  split <;> rfl

theorem State.linkIf_lr (link : lk = true) : (s.linkIf lk).lr = s.nextPc := by
  rw [State.linkIf, if_pos link, State.setLr_lr]

@[simp] theorem State.branchIf_ctr : (s.branchIf taken target).ctr = s.ctr := by
  unfold State.branchIf
  split <;> rfl

@[simp] theorem State.branchIf_lr : (s.branchIf taken target).lr = s.lr := by
  unfold State.branchIf
  split <;> rfl

theorem State.branchIf_pc : (s.branchIf taken target).pc = if taken then s.iea target else s.nextPc := by
  unfold State.branchIf
  split <;> rfl

theorem State.linkIf_branchIf_pc : ((s.linkIf lk).branchIf taken target).pc = if taken then s.iea target else s.nextPc := by
  rw [State.branchIf_pc, State.linkIf_iea, State.linkIf_nextPc]

theorem State.linkIf_branchIf_lr (link : lk = true) : ((s.linkIf lk).branchIf taken target).lr = s.nextPc := by
  rw [State.branchIf_lr, State.linkIf_lr s lk link]

theorem State.leaves_linkIf_branchIf : Leaves { lr := lk } s ((s.linkIf lk).branchIf taken target) :=
  ((Leaves.refl _ s).linkIf id).branchIf taken target

end

/-! ### Branches (R230 to R233) -/

/-- Settles O9: the branch that is always taken, to the target of its field. -/
theorem branchGoesToItsTarget : Obligations.BranchGoesToItsTarget := by
  intro s li aa lk
  refine ⟨_, rfl, ?_, s.linkIf_branchIf_lr lk _ _, s.leaves_linkIf_branchIf lk _ _⟩
  rw [State.linkIf_branchIf_pc, State.branchTarget_branchOffset, if_pos rfl]

/-- What `bc` and `bclr` do with a target (R231, R232). -/
theorem completes_branchConditional (s : State) (bo : BitVec 5) (bi : BitNum) (target : DWord) (lk : Bool) :
    let ctr := if bitAt bo 2 then s.ctr else s.ctr - 1
    let taken := (bitAt bo 2 || (decide (s.unsignedLow ctr ≠ 0) != bitAt bo 3)) && (bitAt bo 0 || (s.crBit bi == bitAt bo 1))
    completes (branchConditional bo bi target lk s) (fun t =>
      t.pc = (if taken then s.iea target else s.nextPc) ∧ t.ctr = ctr ∧ (lk = true → t.lr = s.nextPc) ∧
        Leaves { lr := lk, ctr := true } s t) := by
  intro ctr taken
  have decremented : s.decremented bo = s.setCtr ctr := s.decremented_eq bo
  have decision : ((s.setCtr ctr).ctrOk bo && (s.setCtr ctr).condOk bo bi) = taken := by
    rw [State.ctrOk_setCtr, State.condOk_setCtr, State.condOk]
  have branch : branchConditional bo bi target lk s = .next (((s.setCtr ctr).linkIf lk).branchIf taken target) := by
    simp only [branchConditional, decremented, decision]
  refine ⟨_, branch, ?pc, ?ctr, fun link => ?lr, ?frame⟩
  case pc => rw [State.linkIf_branchIf_pc, State.setCtr_iea, State.setCtr_nextPc]
  case ctr => rw [State.branchIf_ctr, State.linkIf_ctr, State.setCtr_ctr]
  case lr => rw [State.linkIf_branchIf_lr _ _ _ _ link, State.setCtr_nextPc]
  case frame => exact (((Leaves.refl _ s).setCtr ctr rfl).linkIf id).branchIf taken target

/-- Settles O10: `bc` and `bclr` are one conditional branch with two targets. -/
theorem conditionalBranchesDecrementTestAndLink : Obligations.ConditionalBranchesDecrementTestAndLink := by
  intro s bo bi bd bh aa lk ctr taken
  refine ⟨?bc, completes_branchConditional s bo bi (wordAligned s.lr) lk⟩
  case bc =>
    rw [← State.branchTarget_branchOffset]
    exact completes_branchConditional s bo bi (s.branchTarget (branchOffset bd) aa) lk

/-- Settles O11: the check of the form, then a branch on the condition alone. -/
theorem branchToCountRegister : Obligations.BranchToCountRegister := by
  intro s bo bi bh lk
  refine ⟨fun valid => ?valid, fun invalid => ?invalid⟩
  case valid =>
    have branch : execBcctr bo bi bh lk s = .next ((s.linkIf lk).branchIf (s.condOk bo bi) (wordAligned s.ctr)) :=
      if_neg (by simp [badCountBranch, valid])
    exact ⟨_, branch, s.linkIf_branchIf_pc lk _ _, s.linkIf_branchIf_lr lk _ _, s.leaves_linkIf_branchIf lk _ _⟩
  case invalid => exact if_pos (by simp [badCountBranch, invalid])

/-! ### System call (R234, R795) -/

/-- Settles O12: bit 6 of LEV is its rightmost. -/
theorem systemCallIsTaken : Obligations.SystemCallIsTaken := by
  intro s lev
  have rightmost : bitAt lev 6 = lev.getLsbD 0 := bitAt_eq_getLsbD lev 6 (by omega)
  refine ⟨?taken, rfl⟩
  rw [← rightmost]
  rfl

/-! ### The Condition Register (R240 to R249) -/

/-- The instruction that combines two bits by `f`, for every way to write `f`. -/
theorem combinesCrBits_crLogical (f : Bool → Bool → Bool) {g : Bool → Bool → Bool} (same : ∀ a b, f a b = g a b)
    (bt ba bb : BitNum) (s : State) :
    combinesCrBits (crLogical f bt ba bb s) g bt ba bb s := by
  refine completesWith_registers rfl ((Leaves.refl _ s).setCrBit bt _ (List.mem_singleton.mpr rfl)) rfl fun n => ?_
  rw [advance_crBit, State.crBit_setCrBit, same]

/-- Settles O13: each logical instruction by its function of two bits, and `mcrf` by the field it writes. -/
theorem conditionRegisterInstructions : Obligations.ConditionRegisterInstructions := by
  intro s bt ba bb bf bfa
  refine ⟨?crand, ?cror, ?crxor, ?crnand, ?crnor, ?creqv, ?crandc, ?crorc, ?mcrf⟩
  case crand => exact combinesCrBits_crLogical (fun a b => a && b) (fun _ _ => rfl) bt ba bb s
  case cror => exact combinesCrBits_crLogical (fun a b => a || b) (fun _ _ => rfl) bt ba bb s
  case crxor => exact combinesCrBits_crLogical (fun a b => a ^^ b) (by decide) bt ba bb s
  case crnand => exact combinesCrBits_crLogical (fun a b => !(a && b)) Bool.not_and bt ba bb s
  case crnor => exact combinesCrBits_crLogical (fun a b => !(a || b)) Bool.not_or bt ba bb s
  case creqv => exact combinesCrBits_crLogical (fun a b => a == b) (by decide) bt ba bb s
  case crandc => exact combinesCrBits_crLogical (fun a b => a && !b) (fun _ _ => rfl) bt ba bb s
  case crorc => exact combinesCrBits_crLogical (fun a b => a || !b) (fun _ _ => rfl) bt ba bb s
  case mcrf =>
    refine completesWith_registers rfl ((Leaves.refl _ s).setCrField bf _ (List.mem_singleton.mpr rfl)) rfl ?_
    rw [advance_crField, State.crField_setCrField_self]

end Sys2Proof.Machine
end

section
/-! Words written out in the spec: each is its instruction's encoding (R155 to R169, R180). -/
namespace Sys2Proof.Laws

theorem decodeWord_of_encode {w : Word} {i : Instr} (h : encode i = w) : decodeWord w = .ok i := h ▸ decodeWord_encode i

/-- Settles O3: the decoder gives back the instruction that each word encodes. -/
theorem wordsOfTheSpecDecode : Obligations.WordsOfTheSpecDecode := by
  refine ⟨?bc, ?lwa, ?addRc, ?rldicl, ?fmadd, ?mtctr⟩
  all_goals exact decodeWord_of_encode (by decide)

end Sys2Proof.Laws
end

section
/-! The fixed-point loads and stores: what a load delivers, extended or reversed, and what a store leaves in storage (R260 to
R317). -/
namespace Sys2Proof.Machine

/-! ### Extended values (R270, R278, R286) -/

/-- The low-order `n` bytes with copies of their sign to their left: what the algebraic loads make of the loaded value. -/
def signExtended (n : Nat) (v : DWord) : DWord := sext64 (v.setWidth (8 * n))

theorem halfAlgebraic_eq : halfAlgebraic = signExtended 2 := rfl

theorem wordAlgebraic_eq : wordAlgebraic = signExtended 4 := rfl

theorem byteOf_signExtended (v : DWord) {n i : Nat} (hn : n ≤ 8) (hi : i < n) : byteOf (signExtended n v) n i = byteOf v n i := by
  apply BitVec.eq_of_getLsbD_eq
  intro k hk
  have extended : 8 * (n - 1 - i) + k < 8 * n := by omega
  have inRegister : 8 * (n - 1 - i) + k < 64 := by omega
  rw [byteOf_getLsbD _ _ _ _ hk, byteOf_getLsbD _ _ _ _ hk, signExtended, sext64, BitVec.getLsbD_signExtend]
  simp [extended, inRegister]

theorem signExtended_toInt_bounds (v : DWord) {n : Nat} (hn : n ≤ 8) :
    -(2 ^ (8 * n - 1) : Int) ≤ (signExtended n v).toInt ∧ (signExtended n v).toInt < (2 ^ (8 * n - 1) : Int) := by
  have value : (signExtended n v).toInt = (v.setWidth (8 * n)).toInt := BitVec.toInt_signExtend_of_le (by omega)
  rw [value]
  exact ⟨BitVec.le_toInt _, BitVec.toInt_lt⟩

theorem State.loadValue_toNat_lt (s : State) (ea : DWord) (n : Nat) : (s.loadValue ea n).toNat < 2 ^ (8 * n) := by
  refine Nat.lt_pow_two_of_testBit _ fun k hk => ?_
  rw [BitVec.testBit_toNat]
  exact s.loadValue_high ea n k hk

/-! ### Reversed values (R313) -/

/-- `conv` reverses the low-order `n` bytes of a value and puts zeros to their left. -/
def reversesBytes (conv : DWord → DWord) (n : Nat) : Prop :=
  ∀ v : DWord, (∀ i : Nat, i < n → byteOf (conv v) n i = byteOf v n (n - 1 - i)) ∧ (conv v).toNat < 2 ^ (8 * n)

theorem zext64_toNat_lt {w : Nat} (x : BitVec w) : (zext64 x).toNat < 2 ^ w := by
  rw [zext64, BitVec.toNat_setWidth]
  exact (Nat.mod_le _ _).trans_lt x.isLt

section
variable {w : Nat} (x : BitVec w) (b : Byte)

theorem byteOf_zext64 : byteOf (zext64 b) 1 0 = b := by
  simp [byteOf, zext64]

theorem byteOf_append_last (n : Nat) : byteOf (zext64 (x ++ b)) (n + 1) n = b := by
  apply BitVec.eq_of_getLsbD_eq
  intro k hk
  rw [byteOf_getLsbD _ _ _ _ hk, zext64, BitVec.getLsbD_setWidth, BitVec.getLsbD_append]
  simp [hk]
  omega

theorem byteOf_append_init {n i : Nat} (hn : n < 8) (hi : i < n) :
    byteOf (zext64 (x ++ b)) (n + 1) i = byteOf (zext64 x) n i := by
  apply BitVec.eq_of_getLsbD_eq
  intro k hk
  have place : 8 * (n + 1 - 1 - i) + k = 8 + (8 * (n - 1 - i) + k) := by omega
  have inRegister : 8 + (8 * (n - 1 - i) + k) < 64 := by omega
  rw [byteOf_getLsbD _ _ _ _ hk, byteOf_getLsbD _ _ _ _ hk, place]
  simp [zext64, BitVec.getLsbD_append, inRegister]
  omega

end

theorem reversesBytes_reverseHalf : reversesBytes reverseHalf 2 := by
  refine fun v => ⟨fun i hi => ?_, zext64_toNat_lt _⟩
  rw [reverseHalf]
  interval_cases i
  · rw [byteOf_append_init _ _ (by omega) (by omega), byteOf_zext64]
    rfl
  · rw [byteOf_append_last]
    rfl

theorem reversesBytes_reverseWord : reversesBytes reverseWord 4 := by
  refine fun v => ⟨fun i hi => ?_, zext64_toNat_lt _⟩
  rw [reverseWord]
  interval_cases i
  · rw [byteOf_append_init _ _ (by omega) (by omega), byteOf_append_init _ _ (by omega) (by omega),
      byteOf_append_init _ _ (by omega) (by omega), byteOf_zext64]
    rfl
  · rw [byteOf_append_init _ _ (by omega) (by omega), byteOf_append_init _ _ (by omega) (by omega), byteOf_append_last]
    rfl
  · rw [byteOf_append_init _ _ (by omega) (by omega), byteOf_append_last]
    rfl
  · rw [byteOf_append_last]
    rfl

/-! ### What a load delivers -/

section
variable (s : State) (ea : DWord) {n : Nat} (hn : n ≤ 8)
include hn

theorem holdsBytes_signExtended : holdsBytes (signExtended n (s.loadValue ea n)) ea n s := fun i hi =>
  (bytesOf_loaded s ea n hn i hi).trans (byteOf_signExtended _ hn hi).symm

theorem readByte_of_reversesBytes {conv : DWord → DWord} (reverse : reversesBytes conv n) {i : Nat} (hi : i < n) :
    s.readByte (s.byteAddr ea n i) = byteOf (conv (s.loadValue ea n)) n (n - 1 - i) := by
  obtain ⟨reversed, -⟩ := reverse (s.loadValue ea n)
  have twice : n - 1 - (n - 1 - i) = i := by omega
  rw [reversed _ (by omega), twice]
  exact bytesOf_loaded s ea n hn i hi

end

/-! ### Loads (R260 to R292, R314, R315) -/

section
variable {s : State} {rt ra : Reg} {ea : DWord} {n : Nat} {conv : DWord → DWord}

theorem completesWith_loadGpr (h : accessible .load ea n s) {P : DWord → Prop} (hP : P (conv (s.loadValue ea n))) :
    completesWith (loadGpr rt ea n conv s) s { gprs := [rt] } (fun t => P (t.readGpr rt)) := by
  rw [loadGpr, guarded_none (accessFault_of_accessible h)]
  refine completesWith_setGpr s rt _ ?_
  rwa [advance_readGpr, State.readGpr_setGpr_self]

/-- The second write leaves RT as loaded: in a valid form RA is another register (R262). -/
theorem completesWith_loadGprUpdate (h0 : ra ≠ 0) (ht : ra ≠ rt) (h : accessible .load ea n s) {P : DWord → Prop}
    (hP : P (conv (s.loadValue ea n))) : completesWith (loadGprUpdate rt ra ea n conv s) s { gprs := [rt, ra] }
      (fun t => P (t.readGpr rt) ∧ t.readGpr ra = ea) := by
  rw [loadGprUpdate, if_neg (by simp [badLoadUpdate_eq_false h0 ht]), guarded_none (accessFault_of_accessible h)]
  refine completesWith_registers rfl (((Leaves.refl _ s).setGpr rt _ (by simp)).setGpr ra ea (by simp)) rfl ⟨?loaded, ?updated⟩
  case loaded => rwa [advance_readGpr, State.readGpr_setGpr_other _ _ _ _ ht.symm, State.readGpr_setGpr_self]
  case updated => rw [advance_readGpr, State.readGpr_setGpr_self]

theorem loadsZero_loadGpr (hn : n ≤ 8) : loadsZero (loadGpr rt ea n zeroExtended s) rt ea n s := fun h =>
  completesWith_loadGpr h (P := fun v => holdsBytes v ea n s ∧ v.toNat < 2 ^ (8 * n))
    ⟨bytesOf_loaded s ea n hn, s.loadValue_toNat_lt ea n⟩

theorem loadsSigned_loadGpr (hn : n ≤ 8) (signed : conv = signExtended n) :
    loadsSigned (loadGpr rt ea n conv s) rt ea n s := fun h =>
  completesWith_loadGpr h
    (P := fun v => holdsBytes v ea n s ∧ -(2 ^ (8 * n - 1) : Int) ≤ v.toInt ∧ v.toInt < (2 ^ (8 * n - 1) : Int))
    (signed ▸ ⟨holdsBytes_signExtended s ea hn, signExtended_toInt_bounds _ hn⟩)

theorem loadsReversed_loadGpr (hn : n ≤ 8) (reverse : reversesBytes conv n) :
    loadsReversed (loadGpr rt ea n conv s) rt ea n s := fun h =>
  completesWith_loadGpr h
    (P := fun v => (∀ i : Nat, i < n → s.readByte (s.byteAddr ea n i) = byteOf v n (n - 1 - i)) ∧ v.toNat < 2 ^ (8 * n))
    ⟨fun _ hi => readByte_of_reversesBytes s ea hn reverse hi, (reverse _).right⟩

/-- The bounds of a loaded value with zeros or copies of its sign to its left. -/
def withinBytes (n : Nat) (signed : Bool) (v : DWord) : Prop :=
  if signed then -(2 ^ (8 * n - 1) : Int) ≤ v.toInt ∧ v.toInt < (2 ^ (8 * n - 1) : Int) else v.toNat < 2 ^ (8 * n)

theorem loadsUpdating_loadGprUpdate {signed : Bool} (bytes : holdsBytes (conv (s.loadValue ea n)) ea n s)
    (bounds : withinBytes n signed (conv (s.loadValue ea n))) :
    loadsUpdating (loadGprUpdate rt ra ea n conv s) rt ra ea n signed s := by
  intro h0 ht h
  obtain ⟨t, next, pc, frame, modified, ⟨holds, within⟩, updated⟩ := completesWith_loadGprUpdate h0 ht h
    (P := fun v => holdsBytes v ea n s ∧ withinBytes n signed v) ⟨bytes, bounds⟩
  exact ⟨t, next, pc, frame, modified, holds, updated, within⟩

theorem loadsUpdating_zero (hn : n ≤ 8) : loadsUpdating (loadGprUpdate rt ra ea n zeroExtended s) rt ra ea n false s :=
  loadsUpdating_loadGprUpdate (bytesOf_loaded s ea n hn) (s.loadValue_toNat_lt ea n)

theorem loadsUpdating_signed (hn : n ≤ 8) (signed : conv = signExtended n) :
    loadsUpdating (loadGprUpdate rt ra ea n conv s) rt ra ea n true s := by
  subst signed
  exact loadsUpdating_loadGprUpdate (holdsBytes_signExtended s ea hn) (signExtended_toInt_bounds _ hn)

end

/-- Settles O16: each instruction loads its bytes and extends or reverses them. -/
theorem fixedPointLoads : Obligations.FixedPointLoads := by
  intro s rt ra rb d ds
  refine ⟨?lbz, ?lbzx, ?lhz, ?lhzx, ?lwz, ?lwzx, ?ld, ?ldx, ?lha, ?lhax, ?lwa, ?lwax, ?lhbrx, ?lwbrx⟩
  case lbz | lbzx | lhz | lhzx | lwz | lwzx | ld | ldx => exact loadsZero_loadGpr (by omega)
  case lha | lhax => exact loadsSigned_loadGpr (by omega) halfAlgebraic_eq
  case lwa | lwax => exact loadsSigned_loadGpr (by omega) wordAlgebraic_eq
  case lhbrx => exact loadsReversed_loadGpr (by omega) reversesBytes_reverseHalf
  case lwbrx => exact loadsReversed_loadGpr (by omega) reversesBytes_reverseWord

/-- Settles O17: the loads of O16, with the effective address into another register than the one loaded. -/
theorem fixedPointLoadsWithUpdate : Obligations.FixedPointLoadsWithUpdate := by
  intro s rt ra rb d ds
  refine ⟨?lbzu, ?lbzux, ?lhzu, ?lhzux, ?lhau, ?lhaux, ?lwzu, ?lwzux, ?lwaux, ?ldu, ?ldux⟩
  case lbzu | lbzux | lhzu | lhzux | lwzu | lwzux | ldu | ldux => exact loadsUpdating_zero (by omega)
  case lhau | lhaux => exact loadsUpdating_signed (by omega) halfAlgebraic_eq
  case lwaux => exact loadsUpdating_signed (by omega) wordAlgebraic_eq

/-! ### Stores (R295 to R311, R316, R317) -/

@[simp] theorem State.storeValue_byteAddr (s : State) (ea x : DWord) (n m i : Nat) (v : DWord) :
    (s.storeValue ea n v).byteAddr x m i = s.byteAddr x m i := by
  simp [State.byteAddr, State.littleEndian, State.sa]

section
variable {s : State} {ra : Reg} {v ea : DWord} {n : Nat}

theorem holdsBytes_storeValue (hn : n ≤ 8) (hm : Memory.wf s.mem = true) : holdsBytes v ea n (s.storeValue ea n v) := by
  intro i hi
  rw [State.storeValue_byteAddr]
  exact s.readByte_storeValue_same ea n v i (by omega) hi hm

theorem completesWith_storeScalar (h : accessible .store ea n s) {P : State → Prop} (hP : P (advance (s.storeValue ea n v))) :
    completesWith (storeScalar v ea n s) s { bytes := s.operandAddrs ea n } P := by
  rw [storeScalar, guarded_none (accessFault_of_accessible h)]
  exact completesWith_store ea n v rfl hP

theorem storesAt_storeScalar (hn : n ≤ 8) : storesAt (storeScalar v ea n s) v ea n s := fun hm h =>
  completesWith_storeScalar h (holdsBytes_storeValue hn hm)

theorem storesReversed_storeScalar {conv : DWord → DWord} (hn : n ≤ 8) (reverse : reversesBytes conv n) :
    storesReversed (storeScalar (conv v) ea n s) v ea n s := fun hm h =>
  completesWith_storeScalar h fun i hi => (holdsBytes_storeValue hn hm i hi).trans ((reverse v).left i hi)

/-- The value is read before RA is written, so that RS = RA is no exception (R262). -/
theorem storesUpdating_storeScalarUpdate (hn : n ≤ 8) : storesUpdating (storeScalarUpdate v ra ea n s) v ra ea n s := by
  intro h0 hm h
  rw [storeScalarUpdate, if_neg (by simp [badUpdate_eq_false h0]), guarded_none (accessFault_of_accessible h)]
  refine completesWith_advance (((Leaves.refl _ s).storeValue ea n v fun _ ha => ha).setGpr ra ea (by simp)) (by simp)
    (fun a ha => State.mem_storeValue_modified.mpr (.inl ha)) ⟨holdsBytes_storeValue hn hm, ?updated⟩
  case updated => rw [advance_readGpr, State.readGpr_setGpr_self]

end

/-- Settles O18: each instruction stores RS, or RS reversed. -/
theorem fixedPointStores : Obligations.FixedPointStores := by
  intro s rs ra rb d ds
  refine ⟨?stb, ?stbx, ?sth, ?sthx, ?stw, ?stwx, ?std, ?stdx, ?sthbrx, ?stwbrx⟩
  case stb | stbx | sth | sthx | stw | stwx | std | stdx => exact storesAt_storeScalar (by omega)
  case sthbrx => exact storesReversed_storeScalar (by omega) reversesBytes_reverseHalf
  case stwbrx => exact storesReversed_storeScalar (by omega) reversesBytes_reverseWord

/-- Settles O19: RS is read in the state before the instruction, whatever register RA is. -/
theorem fixedPointStoresWithUpdate : Obligations.FixedPointStoresWithUpdate := by
  intro s rs ra rb d ds
  refine ⟨?stbu, ?stbux, ?sthu, ?sthux, ?stwu, ?stwux, ?stdu, ?stdux⟩
  all_goals exact storesUpdating_storeScalarUpdate (by omega)

end Sys2Proof.Machine
end

section
/-! The multiple and string instructions: what writing consecutive registers and storing consecutive operands leave, how a string's
bytes fill the registers, and the words and bytes moved (R320 to R333). -/
namespace Sys2Proof.Machine

/-! ### Consecutive registers (R325) -/

section
variable (s : State) (r : Reg)

theorem regAfter_zero : regAfter r 0 = r := BitVec.add_zero r

theorem regAfter_succ (k : Nat) : regAfter (r + 1) k = regAfter r (k + 1) := by
  show r + BitVec.ofNat 5 1 + BitVec.ofNat 5 k = r + BitVec.ofNat 5 (k + 1)
  rw [BitVec.add_assoc, ← BitVec.ofNat_add, Nat.add_comm]

theorem regAfter_inj {j k : Nat} (hj : j < 32) (hk : k < 32) (h : regAfter r j = regAfter r k) : j = k := by
  have same := congrArg BitVec.toNat ((BitVec.add_right_inj r).mp h)
  simp only [BitVec.toNat_ofNat] at same
  omega

theorem State.readGpr_setGprs_other {vs : List DWord} {q : Reg} (h : ∀ k : Nat, k < vs.length → regAfter r k ≠ q) :
    (s.setGprs r vs).readGpr q = s.readGpr q := by
  induction vs generalizing s r with
  | nil => rfl
  | cons v vs ih =>
    have first : q ≠ r := fun e => h 0 (by simp) (by rw [regAfter_zero, e])
    have later (k : Nat) (hk : k < vs.length) : regAfter (r + 1) k ≠ q := by
      rw [regAfter_succ]
      exact h (k + 1) (by simpa using hk)
    rw [State.setGprs, ih _ _ later, State.readGpr_setGpr_other _ _ _ _ first]

/-- At most 32 values go to different registers, so that each is read back. -/
theorem State.readGpr_setGprs {vs : List DWord} (fit : vs.length ≤ 32) {k : Nat} (hk : k < vs.length) :
    (s.setGprs r vs).readGpr (regAfter r k) = vs[k] := by
  induction vs generalizing s r k with
  | nil => simp at hk
  | cons v vs ih =>
    have fits : vs.length + 1 ≤ 32 := fit
    cases k with
    | zero =>
      have apart (j : Nat) (hj : j < vs.length) : regAfter (r + 1) j ≠ regAfter r 0 := fun e => by
        rw [regAfter_succ] at e
        exact absurd (regAfter_inj r (by omega) (by omega) e) (by omega)
      rw [State.setGprs, State.readGpr_setGprs_other _ _ apart, regAfter_zero, State.readGpr_setGpr_self, List.getElem_cons_zero]
    | succ k =>
      rw [State.setGprs, ← regAfter_succ, ih _ _ (by omega) (by simpa using hk), List.getElem_cons_succ]

end

/-! ### Consecutive operands (R320, R330) -/

theorem State.firstFault_eq_none {s : State} {k : Access} {ea : DWord} {w n : Nat}
    (h : ∀ j : Nat, j < n → accessible k (ea + BitVec.ofNat 64 (w * j)) w s) : s.firstFault k w (consecutive ea w n) = none := by
  refine List.findSome?_eq_none_iff.mpr fun x hx => ?_
  obtain ⟨j, hj, rfl⟩ := List.mem_map.mp hx
  exact accessFault_of_accessible (h j (List.mem_range.mp hj))

theorem accessible_bytes {s : State} {k : Access} {ea : DWord} {n : Nat} (h : bytesAccessible k ea n s) :
    ∀ j : Nat, j < n → accessible k (ea + BitVec.ofNat 64 (1 * j)) 1 s := by
  simp only [Nat.one_mul]
  exact h

@[simp] theorem State.storeValues_byteAddr (s : State) (w : Nat) (eas vs : List DWord) (x : DWord) (m i : Nat) :
    (s.storeValues w eas vs).byteAddr x m i = s.byteAddr x m i := by
  simp [State.byteAddr, State.littleEndian, State.sa]

theorem State.storeValues_concat (s : State) (w : Nat) {eas vs : List DWord} (ea v : DWord) (h : eas.length = vs.length) :
    s.storeValues w (eas ++ [ea]) (vs ++ [v]) = (s.storeValues w eas vs).storeValue ea w v := by
  induction eas generalizing s vs with
  | nil =>
    obtain rfl := List.length_eq_zero_iff.mp h.symm
    rfl
  | cons x eas ih =>
    cases vs with
    | nil => simp at h
    | cons u vs => exact ih _ (by simpa using h)

theorem State.storeValues_consecutive_succ (s : State) (ea : DWord) (w n : Nat) (f : Nat → DWord) :
    s.storeValues w (consecutive ea w (n + 1)) ((List.range (n + 1)).map f) =
      (s.storeValues w (consecutive ea w n) ((List.range n).map f)).storeValue (ea + BitVec.ofNat 64 (w * n)) w (f n) := by
  rw [consecutive, List.range_succ, List.map_append, List.map_append]
  exact s.storeValues_concat w _ _ (by simp)

section
variable {s : State} (big : s.littleEndian = false) (ea : DWord) {w : Nat}
include big

theorem State.byteAddr_consecutive (k i : Nat) :
    s.byteAddr (ea + BitVec.ofNat 64 (w * k)) w i = (s.sa (ea + BitVec.ofNat 64 (w * k + i))).toNat := by
  rw [State.byteAddr_bigEndian big, BitVec.add_assoc, ← BitVec.ofNat_add]

/-- Consecutive operands do not overlap, also where their addresses wrap. -/
theorem State.byteAddr_not_mem_operandAddrs {k n i : Nat} (fit : w * (n + 1) ≤ 2 ^ 32) (hk : k < n) (hi : i < w) :
    s.byteAddr (ea + BitVec.ofNat 64 (w * k)) w i ∉ s.operandAddrs (ea + BitVec.ofNat 64 (w * n)) w := by
  intro h
  obtain ⟨j, hj, same⟩ := State.mem_operandAddrs.mp h
  have below : w * k + w ≤ w * n := Nat.mul_le_mul_left w hk
  rw [Nat.mul_succ] at fit
  rw [State.byteAddr_consecutive big, State.byteAddr_consecutive big] at same
  have equal := s.sa_add_inj ea _ _ (by omega) (by omega) (BitVec.eq_of_toNat_eq same)
  omega

/-- What consecutive stores leave: each operand holds its own value. -/
theorem State.readByte_storeValues (hm : Memory.wf s.mem = true) (f : Nat → DWord) {n : Nat} (fit : w * n ≤ 2 ^ 32) {k i : Nat}
    (hk : k < n) (hi : i < w) :
    (s.storeValues w (consecutive ea w n) ((List.range n).map f)).readByte (s.byteAddr (ea + BitVec.ofNat 64 (w * k)) w i) =
      byteOf (f k) w i := by
  induction n with
  | zero => omega
  | succ n ih =>
    have width : w ≤ 2 ^ 32 := by
      rw [Nat.mul_succ] at fit
      omega
    rw [State.storeValues_consecutive_succ]
    rcases Nat.lt_succ_iff_lt_or_eq.mp hk with before | rfl
    case inl =>
      have apart := State.byteAddr_not_mem_operandAddrs big ea fit before hi
      rw [State.readByte_storeValue_other _ _ _ _ _ (by simpa [State.operandAddrs] using apart)]
      exact ih ((Nat.mul_le_mul_left w n.le_succ).trans fit) before
    case inr =>
      rw [← State.storeValues_byteAddr s w (consecutive ea w k) ((List.range k).map f)]
      exact State.readByte_storeValue_same _ _ _ _ _ width hi (s.storeValues_mem_wf w _ _ hm)

end

/-! ### Completion -/

section
variable {s : State} {ea : DWord} {w n : Nat}

/-- A load of consecutive registers, at most 32. -/
theorem completesWith_loadGprs (access : ∀ j : Nat, j < n → accessible .load (ea + BitVec.ofNat 64 (w * j)) w s) (r : Reg) {m : Nat}
    (fit : m ≤ 32) {f : Nat → DWord} {P : Nat → DWord → Prop} (hP : ∀ k : Nat, k < m → P k (f k)) :
    completesWith (guarded (s.firstFault .load w (consecutive ea w n)) s (s.setGprs r ((List.range m).map f))) s
      { gprs := regsFrom r m } (fun t => ∀ k : Nat, k < m → P k (t.readGpr (regAfter r k))) := by
  rw [guarded_none (State.firstFault_eq_none access)]
  refine completesWith_registers rfl ((Leaves.refl _ s).setGprs r _ fun k hk => ?listed) (by simp) fun k hk => ?loaded
  case listed => exact List.mem_map.mpr ⟨k, by simpa using hk, rfl⟩
  case loaded =>
    have value := s.readGpr_setGprs r (vs := (List.range m).map f) (by simpa using fit) (k := k) (by simpa using hk)
    rw [advance_readGpr, value]
    simpa using hP k hk

/-- A store of consecutive operands: the bytes listed are those of the operands. -/
theorem completesWith_storeValues (access : ∀ j : Nat, j < n → accessible .store (ea + BitVec.ofNat 64 (w * j)) w s)
    {f : Nat → DWord} {bytes : List Nat}
    (listed : ∀ a : Nat, a ∈ bytes ↔ ∃ j, j < n ∧ a ∈ s.operandAddrs (ea + BitVec.ofNat 64 (w * j)) w) {P : State → Prop}
    (hP : P (advance (s.storeValues w (consecutive ea w n) ((List.range n).map f)))) :
    completesWith (guarded (s.firstFault .store w (consecutive ea w n)) s
      (s.storeValues w (consecutive ea w n) ((List.range n).map f))) s { bytes := bytes } P := by
  have operands (a : Nat) : a ∈ bytes ↔ ∃ x ∈ consecutive ea w n, a ∈ s.operandAddrs x w := by
    simp [listed, consecutive]
  rw [guarded_none (State.firstFault_eq_none access)]
  refine completesWith_advance ((Leaves.refl _ s).storeValues w _ _ fun x hx a ha => (operands a).mpr ⟨x, hx, ha⟩) (by simp)
    (fun a ha => ?modified) hP
  case modified => exact (State.mem_storeValues_modified (by simp [consecutive])).mpr (.inl ((operands a).mp ha))

end

/-! ### Load and store multiple (R320, R321) -/

section
variable {s : State} (big : s.littleEndian = false) (r ra : Reg) (d : BitVec 16)
include big

theorem exec_lmw_valid (h : ra.toNat < r.toNat) : exec (.lmw r d ra) s =
    guarded (s.firstFault .load 4 (consecutive (s.eaD ra d) 4 (32 - r.toNat))) s
      (s.setGprs r ((List.range (32 - r.toNat)).map fun k => s.loadValue (s.eaD ra d + BitVec.ofNat 64 (4 * k)) 4)) := by
  have valid : badMultiple r ra = false := decide_eq_false (by rw [BitVec.le_def]; omega)
  show execLmw r d ra s = _
  rw [execLmw, unlessLittleEndian_bigEndian big, if_neg (by simp [valid]), consecutive, List.map_map]
  rfl

theorem exec_stmw : exec (.stmw r d ra) s =
    guarded (s.firstFault .store 4 (consecutive (s.eaD ra d) 4 (32 - r.toNat))) s
      (s.storeValues 4 (consecutive (s.eaD ra d) 4 (32 - r.toNat))
        ((List.range (32 - r.toNat)).map fun k => s.readGpr (regAfter r k))) :=
  unlessLittleEndian_bigEndian big _ _

end

/-- Settles O21: at most 32 consecutive words, each in its own register, none overlapping another. -/
theorem loadAndStoreMultiple : Obligations.LoadAndStoreMultiple := by
  intro s r ra d big
  refine ⟨fun valid access => ?lmw, fun hm access => ?stmw⟩
  case lmw =>
    rw [exec_lmw_valid big r ra d valid]
    exact completesWith_loadGprs access r (by omega)
      (P := fun k v => holdsBytes v (s.eaD ra d + BitVec.ofNat 64 (4 * k)) 4 s ∧ v.toNat < 2 ^ 32)
      fun k _ => ⟨bytesOf_loaded s _ 4 (by omega), s.loadValue_toNat_lt _ 4⟩
  case stmw =>
    rw [exec_stmw big r ra d]
    refine completesWith_storeValues access (by simp) fun k hk i hi => ?stored
    case stored =>
      rw [advance_byteAddr, State.storeValues_byteAddr]
      exact State.readByte_storeValues big _ hm _ (by omega) hk hi

/-! ### How the bytes of a string fill the registers (R330) -/

/-- The word that a string leaves in the `k`-th register: four bytes, zeros after the last one. -/
def stringWord (bs : List Byte) (k : Nat) : DWord :=
  zext64 (bs.getD (4 * k) 0 ++ bs.getD (4 * k + 1) 0 ++ bs.getD (4 * k + 2) 0 ++ bs.getD (4 * k + 3) 0)

theorem wordOf_zext64 (a b c d : Byte) : wordOf (zext64 a) (zext64 b) (zext64 c) (zext64 d) = zext64 (a ++ b ++ c ++ d) := by
  unfold wordOf zext64
  ext i hi
  grind

theorem zext64_zero : zext64 0#8 = 0#64 := rfl

theorem packWords_map_zext64 (bs : List Byte) :
    packWords (bs.map zext64) = (List.range (regsFor bs.length)).map (stringWord bs) := by
  match bs with
  | [] => rfl
  | [_] | [_, _] | [_, _, _] => simp [packWords, regsFor, stringWord, ← wordOf_zext64, zext64_zero]
  | a :: b :: c :: d :: rest =>
    have count : regsFor (rest.length + 4) = regsFor rest.length + 1 := by
      unfold regsFor
      omega
    show wordOf _ _ _ _ :: packWords (rest.map zext64) = (List.range (regsFor (rest.length + 4))).map _
    rw [packWords_map_zext64 rest, count, List.range_succ_eq_map, List.map_cons, List.map_map, wordOf_zext64]
    rfl

theorem byteOf_stringWord (bs : List Byte) (k : Nat) {i : Nat} (hi : i < 4) : byteOf (stringWord bs k) 4 i = bs.getD (4 * k + i) 0 := by
  rw [stringWord]
  interval_cases i
  · rw [byteOf_append_init _ _ (by omega) (by omega), byteOf_append_init _ _ (by omega) (by omega),
      byteOf_append_init _ _ (by omega) (by omega), byteOf_zext64, Nat.add_zero]
  · rw [byteOf_append_init _ _ (by omega) (by omega), byteOf_append_init _ _ (by omega) (by omega), byteOf_append_last]
  · rw [byteOf_append_init _ _ (by omega) (by omega), byteOf_append_last]
  · rw [byteOf_append_last]

theorem State.loadValue_one (s : State) (ea : DWord) : s.loadValue ea 1 = zext64 (s.readByte (s.oneAddr ea)) := by
  simp [State.loadValue, State.operandAddrs, State.oneAddr, valueOfBytes]

/-- The `n` bytes of storage from `ea` on. -/
def State.bytesFrom (s : State) (ea : DWord) (n : Nat) : List Byte :=
  (List.range n).map fun j => s.readByte (s.oneAddr (ea + BitVec.ofNat 64 j))

theorem State.getD_bytesFrom (s : State) (ea : DWord) (n j : Nat) :
    (s.bytesFrom ea n).getD j 0 = if j < n then s.readByte (s.oneAddr (ea + BitVec.ofNat 64 j)) else 0 := by
  simp [State.bytesFrom, List.getD_eq_getElem?_getD]
  split <;> simp_all

theorem State.packWords_loaded (s : State) (ea : DWord) (n : Nat) :
    packWords ((consecutive ea 1 n).map fun x => s.loadValue x 1) =
      (List.range (regsFor n)).map (stringWord (s.bytesFrom ea n)) := by
  have loaded : ((consecutive ea 1 n).map fun x => s.loadValue x 1) = (s.bytesFrom ea n).map zext64 := by
    simp [consecutive, State.bytesFrom, State.loadValue_one]
  rw [loaded, packWords_map_zext64, State.bytesFrom, List.length_map, List.length_range]

/-! ### String loads and stores (R330 to R333) -/

section
variable {s : State} {r ra rb : Reg} {ea : DWord} {n : Nat} {nb : BitVec 5}

theorem loadsString_loadString (fit : n ≤ 128) : loadsString (loadString r ea n s) r ea n s := by
  intro access
  rw [loadString, State.packWords_loaded]
  refine completesWith_loadGprs (accessible_bytes access) r (by unfold regsFor; omega) (P := fun k v => v.toNat < 2 ^ 32 ∧
    ∀ i : Nat, i < 4 → byteOf v 4 i = if 4 * k + i < n then s.readByte (s.oneAddr (ea + BitVec.ofNat 64 (4 * k + i))) else 0)
    fun k _ => ⟨zext64_toNat_lt _, fun i hi => ?_⟩
  rw [byteOf_stringWord _ _ hi, State.getD_bytesFrom]

theorem storesString_storeString (big : s.littleEndian = false) (fit : n ≤ 128) :
    storesString (storeString r ea n s) r ea n s := by
  intro hm access
  refine completesWith_storeValues (accessible_bytes access) (fun a => ?listed) fun j hj => ?stored
  case listed => simp [State.operandAddrs, State.oneAddr, eq_comm]
  case stored =>
    have byte := State.readByte_storeValues big ea hm (s.stringByte r) (w := 1) (n := n) (by omega) hj Nat.one_pos
    rw [Nat.one_mul] at byte
    exact byte.trans (byteOf_zext64 _)

theorem nbCount_le (nb : BitVec 5) : nbCount nb ≤ 32 := by
  unfold nbCount
  split <;> omega

theorem State.byteCount_le (s : State) : s.byteCount ≤ 127 := by
  rw [s.byteCount_eq]
  omega

section
variable (big : s.littleEndian = false)
include big

theorem exec_lswi_valid (h : ∀ k : Nat, k < regsFor (nbCount nb) → regAfter r k ≠ ra) :
    exec (.lswi r ra nb) s = loadString r (s.ra0 ra) (nbCount nb) s := by
  have valid : badStringImm r ra nb = false := inRange_eq_false h
  show execLswi r ra nb s = _
  rw [execLswi, unlessLittleEndian_bigEndian big, if_neg (by simp [valid])]

theorem exec_lswx_valid (hra : r ≠ ra) (hrb : r ≠ rb) (someByte : s.byteCount ≠ 0)
    (h : ∀ k : Nat, k < regsFor s.byteCount → regAfter r k ≠ ra ∧ regAfter r k ≠ rb) :
    exec (.lswx r ra rb) s = loadString r (s.eaX ra rb) s.byteCount s := by
  have valid : badStringIdx r ra rb = false := by simp [badStringIdx, hra, hrb]
  have apart : (inRange r (regsFor s.byteCount) ra || inRange r (regsFor s.byteCount) rb) = false := by
    rw [inRange_eq_false (fun k hk => (h k hk).left), inRange_eq_false (fun k hk => (h k hk).right), Bool.or_false]
  show execLswx r ra rb s = _
  rw [execLswx, unlessLittleEndian_bigEndian big, if_neg (by simp [valid]), if_neg someByte, if_neg (by simp [apart])]

theorem exec_lswx_none (hra : r ≠ ra) (hrb : r ≠ rb) (noByte : s.byteCount = 0) :
    exec (.lswx r ra rb) s = .next (advance ((s.setGpr r (s.free 0)).drew 1)) := by
  have valid : badStringIdx r ra rb = false := by simp [badStringIdx, hra, hrb]
  show execLswx r ra rb s = _
  rw [execLswx, unlessLittleEndian_bigEndian big, if_neg (by simp [valid]), if_pos noByte]

theorem exec_stswi : exec (.stswi r ra nb) s = storeString r (s.ra0 ra) (nbCount nb) s := unlessLittleEndian_bigEndian big _ _

theorem exec_stswx : exec (.stswx r ra rb) s = storeString r (s.eaX ra rb) s.byteCount s := unlessLittleEndian_bigEndian big _ _

end

end

/-- Settles O22: a string is at most 127 bytes long, so that its registers differ and its bytes do not overlap. -/
theorem loadAndStoreString : Obligations.LoadAndStoreString := by
  intro s r ra rb nb big n m
  have immediate : n ≤ 128 := (nbCount_le nb).trans (by omega)
  have indexed : s.byteCount ≤ 128 := s.byteCount_le.trans (by omega)
  have count : m = s.byteCount := s.byteCount_eq.symm
  rw [count]
  refine ⟨fun apart => ?lswi, fun hra hrb someByte apart => ?lswx, fun hra hrb noByte => ?lswxNone, ?stswi, ?stswx⟩
  case lswi => exact exec_lswi_valid big apart ▸ loadsString_loadString immediate
  case lswx => exact exec_lswx_valid big hra hrb someByte apart ▸ loadsString_loadString indexed
  case lswxNone =>
    rw [exec_lswx_none big hra hrb noByte]
    exact completesWith_registers rfl (((Leaves.refl _ s).setGpr r _ (by simp)).drew 1) rfl trivial
  case stswi => exact exec_stswi big ▸ storesString_storeString big immediate
  case stswx => exact exec_stswx big ▸ storesString_storeString big indexed

end Sys2Proof.Machine
end

section
/-! Fixed-point arithmetic: what an XO-form instruction records of its result in XER and CR field 0, and the exact sums behind the
adds and subtracts (R350 to R370). -/
namespace Sys2Proof.Machine

/-! ### Numbers in the mode in effect (R17, R45) -/

theorem toInt_loWord (x : DWord) : (loWord x).toInt = x.toInt.bmod (2 ^ 32) := by
  rw [loWord, BitVec.toInt_setWidth, BitVec.toInt_eq_toNat_bmod, Int.bmod_bmod_of_dvd (by decide)]

section
variable {s : State} (x : DWord)

theorem State.width_of_mode64 (mode : s.params.mode64 = true) : s.width = 64 := if_pos mode

theorem State.width_of_mode32 (mode : s.params.mode64 = false) : s.width = 32 := if_neg (by simp [mode])

theorem State.signedLow_of_mode64 (mode : s.params.mode64 = true) : s.signedLow x = x.toInt := by
  rw [State.signedLow, State.width_of_mode64 mode, BitVec.toInt_bmod_cancel]

theorem State.signedLow_of_mode32 (mode : s.params.mode64 = false) : s.signedLow x = (loWord x).toInt := by
  rw [State.signedLow, State.width_of_mode32 mode, toInt_loWord]

end

theorem State.signedLow_congr {s t : State} (same : t.params = s.params) (x : DWord) : t.signedLow x = s.signedLow x := by
  rw [State.signedLow, State.width, same]
  rfl

/-! ### The record in CR field 0 (R52) -/

theorem signedOrder_zero {w : Nat} (a : BitVec w) (so : Bool) :
    signedOrder a 0 so = nibble (decide (a.toInt < 0)) (decide (0 < a.toInt)) (decide (a.toInt = 0)) so := by
  have zero : (0 : BitVec w).toInt = 0 := BitVec.toInt_zero
  have isZero : (a == 0) = decide (a.toInt = 0) := by simp [Bool.beq_eq_decide_eq, ← BitVec.toInt_inj]
  rw [signedOrder, isZero, zero]

theorem recordsIf_congr {s u t : State} {rc : Bool} {res : DWord} (same : u.params = s.params) (h : recordsIf rc res u t) :
    recordsIf rc res s t := by
  intro record
  have sign := h record
  rwa [recordsResult, State.signedLow_congr same] at sign

theorem bitAt_nibble_last (b0 b1 b2 b3 : Bool) : bitAt (nibble b0 b1 b2 b3) 3 = b3 := by
  revert b0 b1 b2 b3
  decide

/-- The recorded field is the sign of the mode's low-order bits, as a number. -/
theorem State.cr0Of_eq (s : State) (res : DWord) : s.cr0Of res =
    nibble (decide (s.signedLow res < 0)) (decide (0 < s.signedLow res)) (decide (s.signedLow res = 0)) s.so := by
  cases mode : s.params.mode64 with
  | true => rw [State.cr0Of, if_pos mode, signedOrder_zero, State.signedLow_of_mode64 res mode]
  | false => rw [State.cr0Of, if_neg (by simp [mode]), signedOrder_zero, State.signedLow_of_mode32 res mode]

section
variable (s : State) (rc undef : Bool) (res v : DWord)

/-- Whether or not it records, the instruction writes CR alone. -/
theorem State.setCr0If_eq : s.setCr0If rc res = s.setCr (if rc then (s.setCr0 res).cr else s.cr) := by
  unfold State.setCr0If
  split <;> rfl

theorem State.recordsIf_setCr0If : recordsIf rc res s (s.setCr0If rc res) := by
  rintro rfl
  show (s.setCrField 0 (s.cr0Of res)).crField 0 = _
  rw [State.crField_setCrField_self, State.cr0Of_eq]
  rfl

/-- The value recorded of a result that has an undefined part. -/
def State.cr0WordOf (s : State) (undef : Bool) (res v : DWord) : BitVec 4 :=
  if undef || s.params.mode64 then nibble (bitAt v 61) (bitAt v 62) (bitAt v 63) s.so else s.cr0Of res

theorem State.setCr0WordIf_eq : s.setCr0WordIf rc undef res v =
    s.setCr (if rc then (s.setCrField 0 (s.cr0WordOf undef res v)).cr else s.cr) := by
  unfold State.setCr0WordIf State.cr0WordOf
  split
  · split <;> rfl
  · rfl

theorem State.crField_setCr0WordIf : (s.setCr0WordIf true undef res v).crField 0 = s.cr0WordOf undef res v := by
  rw [State.setCr0WordIf_eq]
  exact State.crField_setCrField_self s 0 _

theorem State.recordsSummary_setCr0WordIf : recordsSummary rc (s.setCr0WordIf rc undef res v) := by
  rintro rfl
  have last : bitAt (s.cr0WordOf undef res v) 3 = s.so := by
    unfold State.cr0WordOf
    split
    · exact bitAt_nibble_last ..
    · rw [State.cr0Of_eq, bitAt_nibble_last]
  rw [State.crField_setCr0WordIf, last, State.setCr0WordIf_eq, State.setCr_so]

/-- In 32-bit mode CR0 does not depend on the undefined half of a word result. -/
theorem State.recordsIf_setCr0WordIf (mode : s.params.mode64 = false) : recordsIf rc res s (s.setCr0WordIf rc false res v) := by
  have defined : s.setCr0WordIf rc false res v = s.setCr0If rc res := by
    rw [State.setCr0WordIf, State.setCr0If, mode]
    rfl
  exact defined ▸ s.recordsIf_setCr0If rc res

/-- A record in CR field 0 leaves the other fields. -/
theorem State.crField_recorded (x : BitVec 4) {f : FieldNum} (other : f ∉ recordField rc) :
    fld (if rc then (s.setCrField 0 x).cr else s.cr) (4 * f.toNat) 4 = s.crField f := by
  cases rc with
  | false => rfl
  | true => exact State.crField_setCrField_other s 0 f x (by simpa [recordField] using other)

end

/-! ### The record in XER (R60, R61) -/

section
variable (s : State) (oe ov : Bool)

/-- Whether or not it records, the instruction writes XER alone. -/
theorem State.setOvIf_eq : s.setOvIf oe ov = s.setXer (if oe then (s.setOv ov).xer else s.xer) := by
  unfold State.setOvIf
  split <;> rfl

@[simp] theorem State.params_setOvIf : (s.setOvIf oe ov).params = s.params := by
  rw [State.setOvIf_eq, State.setXer_params]

@[simp] theorem State.ca_setOvIf : (s.setOvIf oe ov).ca = s.ca := by
  unfold State.setOvIf
  split <;> simp

theorem State.recordsOverflow_setOvIf : recordsOverflow oe ov s (s.setOvIf oe ov) := by
  rintro rfl
  exact ⟨State.ov_setOv s ov, State.so_setOv s ov⟩

end

/-! ### XO-form results (R352) -/

theorem completesWith.mono {o : Out} {s : State} {c : Changes} {P Q : State → Prop} (h : completesWith o s c P)
    (weaker : ∀ t, P t → Q t) : completesWith o s c Q := by
  obtain ⟨t, answer, pc, frame, bytes, result⟩ := h
  exact ⟨t, answer, pc, frame, bytes, weaker t result⟩

/-- What an XO-form instruction may change. -/
def xoChanges (rt : Reg) (carries oe rc : Bool) : Changes := { gprs := [rt], cr := recordField rc, xer := sumBits carries oe }

theorem overflowBits_mem_sumBits {carries oe : Bool} (h : oe = true) :
    32 ∈ sumBits carries oe ∧ 33 ∈ sumBits carries oe := by
  simp [sumBits, h]

section
variable {s u : State} {rt : Reg} {carries oe rc : Bool}

/-- RT and XER of an XO-form result, whatever the instruction then makes of CR0. -/
theorem completesWith_setOvIf {res : DWord} {ov : Bool} {cr : Word} {n : Nat} {P : State → Prop}
    (frame : Leaves (xoChanges rt carries oe rc) s u) (pc : u.pc = s.pc) (so : u.so = s.so)
    (fields : ∀ f : FieldNum, f ∉ recordField rc → fld cr (4 * f.toNat) 4 = ((u.setGpr rt res).setOvIf oe ov).crField f)
    (record : P (advance ((((u.setGpr rt res).setOvIf oe ov).setCr cr).drew n))) :
    completesWith (.next (advance ((((u.setGpr rt res).setOvIf oe ov).setCr cr).drew n))) s (xoChanges rt carries oe rc)
      (fun t => t.readGpr rt = res ∧ t.ca = u.ca ∧ recordsOverflow oe ov s t ∧ P t) := by
  have overflow : recordsOverflow oe ov s ((u.setGpr rt res).setOvIf oe ov) :=
    fun h => so ▸ (u.setGpr rt res).recordsOverflow_setOvIf oe ov h
  have carry : ((u.setGpr rt res).setOvIf oe ov).ca = u.ca := State.ca_setOvIf ..
  have leaves := (frame.setGpr rt res (List.mem_singleton.mpr rfl)).setOvIf oe ov overflowBits_mem_sumBits
  rw [State.setOvIf_eq] at overflow carry leaves fields record ⊢
  exact completesWith_registers rfl ((leaves.setCr cr fields).drew n) pc
    ⟨State.readGpr_setGpr_self u rt res, carry, overflow, record⟩

/-- A result of which no part is undefined, after an update `u` that leaves SO alone. -/
theorem completesWith_xoResult (res : DWord) (ov : Bool) (frame : Leaves (xoChanges rt carries oe rc) s u) (pc : u.pc = s.pc)
    (so : u.so = s.so) : completesWith (.next (advance (u.xoResult rt res ov oe rc))) s (xoChanges rt carries oe rc)
      (fun t => t.readGpr rt = res ∧ t.ca = u.ca ∧ recordsOverflow oe ov s t ∧ recordsIf rc res s t) := by
  obtain ⟨-, -, same⟩ := frame.mode
  have params : ((u.setGpr rt res).setOvIf oe ov).params = s.params := (State.params_setOvIf ..).trans same
  have record := recordsIf_congr params (((u.setGpr rt res).setOvIf oe ov).recordsIf_setCr0If rc res)
  rw [State.xoResult]
  rw [State.setCr0If_eq] at record ⊢
  exact completesWith_setOvIf (n := 0) frame pc so (fun f other => State.crField_recorded _ rc _ other) record

/-- A result with an undefined part: SO is recorded and, of a word result in 32-bit mode, the comparison. -/
theorem completesWith_wordResult (res recorded v : DWord) (ov undef : Bool) (n : Nat) :
    completesWith (.next (advance ((((s.setGpr rt res).setOvIf oe ov).setCr0WordIf rc undef recorded v).drew n))) s
      (xoChanges rt false oe rc) (fun t => t.readGpr rt = res ∧ t.ca = s.ca ∧ recordsOverflow oe ov s t ∧
        recordsSummary rc t ∧ (undef = false → s.params.mode64 = false → recordsIf rc recorded s t)) := by
  have params : ((s.setGpr rt res).setOvIf oe ov).params = s.params := State.params_setOvIf ..
  have summary := ((s.setGpr rt res).setOvIf oe ov).recordsSummary_setCr0WordIf rc undef recorded v
  have record : undef = false → s.params.mode64 = false →
      recordsIf rc recorded s (((s.setGpr rt res).setOvIf oe ov).setCr0WordIf rc undef recorded v) := by
    rintro rfl narrow
    exact recordsIf_congr params (State.recordsIf_setCr0WordIf _ rc recorded v (params ▸ narrow))
  rw [State.setCr0WordIf_eq] at summary record ⊢
  exact completesWith_setOvIf (Leaves.refl _ s) rfl rfl (fun f other => State.crField_recorded _ rc _ other) ⟨summary, record⟩

end

/-! ### Sums (R351) -/

theorem setWidth_bit (w : Nat) (c : Bool) : (bit c).setWidth w = BitVec.ofNat w c.toNat := by
  apply BitVec.eq_of_toNat_eq
  cases c <;> simp [bit]

/-- A sum overflows exactly when the exact signed sum is outside the width: then the operands have one sign and the sum modulo
`2 ^ w` the other. -/
theorem overflowed_iff {w : Nat} (width : 0 < w) (a b : BitVec w) (cin : Bool) :
    overflowed a b (a + b + (bit cin).setWidth w) = true ↔
      a.toInt + b.toInt + cin.toNat < -(2 ^ (w - 1) : Int) ∨ (2 ^ (w - 1) : Int) ≤ a.toInt + b.toInt + cin.toNat := by
  obtain ⟨k, rfl⟩ : ∃ k, w = k + 1 := ⟨w - 1, by omega⟩
  have wrapped : (a + b + (bit cin).setWidth (k + 1)).toInt = (a.toInt + b.toInt + cin.toNat).bmod (2 ^ (k + 1)) := by
    rw [← BitVec.toInt_ofInt, BitVec.ofInt_add, BitVec.ofInt_add, BitVec.ofInt_toInt, BitVec.ofInt_toInt, BitVec.ofInt_natCast,
      setWidth_bit]
  have aLow := BitVec.le_toInt a
  have aHigh := BitVec.toInt_lt (x := a)
  have bLow := BitVec.le_toInt b
  have bHigh := BitVec.toInt_lt (x := b)
  rw [Nat.add_sub_cancel] at aLow aHigh bLow bHigh ⊢
  have carry := Bool.toNat_le cin
  have modulus : (2 : Int) ^ (k + 1) = 2 * 2 ^ k := by rw [Int.pow_succ]; omega
  have sign := Int.bmod_neg_iff (m := 2 ^ (k + 1)) (x := a.toInt + b.toInt + cin.toNat) (by push_cast; omega)
    (by push_cast; omega)
  push_cast at sign
  simp only [overflowed, BitVec.msb_eq_toInt, wrapped, Bool.and_eq_true, beq_iff_eq, bne_iff_ne, decide_eq_decide, ne_eq, sign]
  omega

section
variable (s : State) (a b : DWord) (cin : Bool)

theorem State.addC_res : (s.addC a b cin).res = a + b + BitVec.ofNat 64 cin.toNat := by
  rw [← setWidth_bit]
  unfold State.addC
  split <;> rfl

theorem loWord_sum : loWord (a + b + zext64 (bit cin)) = loWord a + loWord b + (bit cin).setWidth 32 := by
  rw [loWord, BitVec.setWidth_add _ _ (by omega), BitVec.setWidth_add _ _ (by omega), zext64,
    BitVec.setWidth_setWidth_of_le _ (by omega)]
  rfl

/-- The carry is that of the exact unsigned sum of the mode's low-order bits. -/
theorem State.addC_ca : (s.addC a b cin).ca = decide (2 ^ s.width ≤ s.unsignedLow a + s.unsignedLow b + cin.toNat) := by
  cases mode : s.params.mode64 with
  | true =>
    rw [State.addC, if_pos mode, State.width_of_mode64 mode, State.unsignedLow_of_mode64 mode, State.unsignedLow_of_mode64 mode]
    rfl
  | false =>
    rw [State.addC, if_neg (by simp [mode]), State.width_of_mode32 mode, State.unsignedLow_of_mode32 mode,
      State.unsignedLow_of_mode32 mode]
    rfl

theorem State.addC_ov : (s.addC a b cin).ov = true ↔
    s.signedLow a + s.signedLow b + cin.toNat < -(2 ^ (s.width - 1) : Int) ∨
      (2 ^ (s.width - 1) : Int) ≤ s.signedLow a + s.signedLow b + cin.toNat := by
  cases mode : s.params.mode64 with
  | true =>
    rw [State.addC, if_pos mode, State.width_of_mode64 mode, State.signedLow_of_mode64 _ mode, State.signedLow_of_mode64 _ mode]
    exact overflowed_iff (by omega) a b cin
  | false =>
    rw [State.addC, if_neg (by simp [mode]), State.width_of_mode32 mode, State.signedLow_of_mode32 _ mode,
      State.signedLow_of_mode32 _ mode]
    rw [loWord_sum]
    exact overflowed_iff (by omega) (loWord a) (loWord b) cin

variable {s : State} {a b : DWord} {cin carries : Bool} {rt : Reg} {oe rc : Bool}

theorem sumResult_of_addC {t : State} (result : t.readGpr rt = (s.addC a b cin).res)
    (carry : carries = true → t.ca = (s.addC a b cin).ca) (overflow : recordsOverflow oe (s.addC a b cin).ov s t)
    (record : recordsIf rc (s.addC a b cin).res s t) : sumResult rt a b cin carries oe rc s t := by
  refine ⟨result.trans (s.addC_res a b cin), fun h => (carry h).trans (s.addC_ca a b cin), fun h => ?_, result ▸ record⟩
  obtain ⟨ov, so⟩ := overflow h
  rw [ov]
  exact ⟨s.addC_ov a b cin, so⟩

/-- An add or subtract that leaves CA alone. -/
theorem completesWith_sumOut : completesWith (sumOut rt (s.addC a b cin) oe rc s) s (xoChanges rt false oe rc)
    (sumResult rt a b cin false oe rc s) :=
  (completesWith_xoResult _ _ (Leaves.refl _ s) rfl rfl).mono fun _ ⟨result, _, overflow, record⟩ =>
    sumResult_of_addC result (fun h => nomatch h) overflow record

/-- An add or subtract that sets CA. -/
theorem completesWith_carryingOut : completesWith (carryingOut rt (s.addC a b cin) oe rc s) s (xoChanges rt true oe rc)
    (sumResult rt a b cin true oe rc s) :=
  (completesWith_xoResult _ _ ((Leaves.refl _ s).setCa _ (by simp [xoChanges, sumBits])) rfl (State.so_setCa s _)).mono
    fun _ ⟨result, carry, overflow, record⟩ =>
      sumResult_of_addC result (fun _ => carry.trans (State.ca_setCa s _)) overflow record

end

/-! ### Add, subtract, negate (R355 to R370) -/

/-- SI with sixteen zeros on its right is 65536 times SI. -/
theorem shiftedSI_eq (si : BitVec 16) : shiftedSI si = BitVec.ofInt 64 (si.toInt * 65536) := by
  have value : (si ++ 0#16).toInt = si.toInt * 65536 := by
    rw [BitVec.toInt_append]
    simp [Int.mul_comm]
  rw [shiftedSI, sext64, BitVec.signExtend, value]

/-- Settles O24: `addi` and `addis` write RT alone; the others are sums of `addC`. -/
theorem addSubtractNegate : Obligations.AddSubtractNegate := by
  intro s rt ra rb si oe rc
  refine ⟨?addi, ?addis, completesWith_sumOut, completesWith_sumOut, completesWith_sumOut⟩
  case addi => exact completesWith_setGpr s rt _ (State.readGpr_setGpr_self s rt _)
  case addis => exact completesWith_setGpr s rt _ ((State.readGpr_setGpr_self s rt _).trans (congrArg _ (shiftedSI_eq si)))

/-- Settles O25: each is a sum of `addC`, the immediate forms without OE. -/
theorem carryingAddSubtract : Obligations.CarryingAddSubtract := by
  intro s rt ra rb si oe rc
  exact ⟨completesWith_carryingOut, completesWith_carryingOut, completesWith_carryingOut, completesWith_carryingOut,
    completesWith_carryingOut, completesWith_carryingOut, completesWith_carryingOut, completesWith_carryingOut,
    completesWith_carryingOut, completesWith_carryingOut, completesWith_carryingOut⟩

end Sys2Proof.Machine
end

section
/-! Fixed-point multiplication and division: the exact products and quotients, and how much of them fits RT (R371 to R382). -/
namespace Sys2Proof.Machine

/-! ### Products (R371 to R377) -/

/-- A number is its low-order `w` bits, read as a signed number, exactly when it is not outside `w` bits. -/
theorem outsideSigned_eq {w : Nat} (width : 0 < w) (x : Int) : outsideSigned w x = decide ((BitVec.ofInt w x).toInt ≠ x) := by
  have low := BitVec.le_toInt (BitVec.ofInt w x)
  have high := BitVec.toInt_lt (x := BitVec.ofInt w x)
  have inside := BitVec.toInt_ofInt_eq_self width (n := x)
  rw [outsideSigned, ← Bool.decide_or, decide_eq_decide]
  push_cast
  constructor
  · intro outside same
    omega
  · intro differs
    by_contra! fits
    obtain ⟨above, below⟩ := fits
    exact differs (inside above below)

section
variable {w : Nat} (x y : BitVec w)

/-- The low-order half of a product is the product of the bit vectors. -/
theorem ofInt_toInt_mul : BitVec.ofInt w (x.toInt * y.toInt) = x * y := by
  rw [BitVec.ofInt_mul, BitVec.ofInt_toInt, BitVec.ofInt_toInt]

/-- The high-order half of a signed product fits the width. -/
theorem toInt_ofInt_highProduct (width : 0 < w) :
    (BitVec.ofInt w (x.toInt * y.toInt / 2 ^ w)).toInt = x.toInt * y.toInt / 2 ^ w := by
  obtain ⟨k, rfl⟩ : ∃ k, w = k + 1 := ⟨w - 1, by omega⟩
  have low := BitVec.le_toInt_mul_toInt (x := x) (y := y)
  have high := BitVec.toInt_mul_toInt_le (x := x) (y := y)
  have square : (2 : Int) ^ ((k + 1) * 2 - 2) = 2 ^ k * 2 ^ k := by rw [← Int.pow_add]; congr 1; omega
  have positive : (0 : Int) < 2 ^ k * 2 ^ k := by positivity
  have modulus : (2 : Int) ^ (k + 1) = 2 * 2 ^ k := by ring
  rw [square] at low high
  refine BitVec.toInt_ofInt_eq_self width ?_ ?_
  · rw [Int.le_ediv_iff_mul_le (by positivity), modulus, Nat.add_sub_cancel]
    linarith
  · rw [Int.ediv_lt_iff_lt_mul (by positivity), modulus, Nat.add_sub_cancel]
    linarith

/-- The high-order half of an unsigned product fits the width. -/
theorem toNat_ofNat_highProduct : (BitVec.ofNat w (x.toNat * y.toNat / 2 ^ w)).toNat = x.toNat * y.toNat / 2 ^ w := by
  rw [BitVec.toNat_ofNat, Nat.mod_eq_of_lt (Nat.div_lt_of_lt_mul (Nat.mul_lt_mul'' x.isLt y.isLt))]

end

/-- The low-order word of a doubleword is that of the number it stands for. -/
theorem loWord_ofInt (x : Int) : loWord (BitVec.ofInt 64 x) = BitVec.ofInt 32 x := by
  apply BitVec.eq_of_toInt_eq
  rw [toInt_loWord, BitVec.toInt_ofInt, BitVec.toInt_ofInt, Int.bmod_bmod_of_dvd (by decide)]

theorem toInt_ofInt_wordProduct (x y : Word) : (BitVec.ofInt 64 (x.toInt * y.toInt)).toInt = x.toInt * y.toInt := by
  have low := BitVec.le_toInt_mul_toInt (x := x) (y := y)
  have high := BitVec.toInt_mul_toInt_le (x := x) (y := y)
  exact BitVec.toInt_ofInt_eq_self (by omega) (by omega) (by omega)

theorem State.loWord_withFreeHigh (s : State) (v : Word) : (s.withFreeHigh v).setWidth 32 = v :=
  BitVec.setWidth_append_eq_right

section
variable {s : State} {rt : Reg} {oe rc : Bool}

/-- An XO-form result that does not set CA, of which `P` holds. -/
theorem completesWith_xoResult_of {res : DWord} {ov : Bool} {P : DWord → Prop} (holds : P res) :
    completesWith (.next (advance (s.xoResult rt res ov oe rc))) s (xoChanges rt false oe rc)
      (fun t => P (t.readGpr rt) ∧ recordsOverflow oe ov s t ∧ recordsIf rc (t.readGpr rt) s t) :=
  (completesWith_xoResult _ _ (Leaves.refl _ s) rfl rfl).mono fun _ ⟨result, _, overflow, record⟩ => by
    rw [result]
    exact ⟨holds, overflow, record⟩

/-- A product, with overflow when its low-order `w` bits are not all of it. -/
theorem completesWith_product {w : Nat} (width : 0 < w) {x : Int} :
    completesWith (.next (advance (s.xoResult rt (BitVec.ofInt 64 x) (outsideSigned w x) oe rc))) s (xoChanges rt false oe rc)
      (fun t => t.readGpr rt = BitVec.ofInt 64 x ∧ recordsOverflow oe (decide ((BitVec.ofInt w x).toInt ≠ x)) s t ∧
        recordsIf rc (t.readGpr rt) s t) :=
  outsideSigned_eq width x ▸ completesWith_xoResult_of (P := (· = _)) rfl

theorem resultInto_xoResult {res : DWord} {P : DWord → Prop} (holds : P res) :
    resultInto (.next (advance (s.xoResult rt res false false rc))) rt rc P s :=
  (completesWith_xoResult_of holds).mono fun _ ⟨result, _, record⟩ => ⟨result, record⟩

/-- A word of which `P` holds under an undefined high-order half. -/
theorem completesWith_withFreeHigh {v : Word} {w : DWord} {ov : Bool} {n : Nat} {P : Word → Prop} (holds : P v) :
    completesWith (.next (advance
        ((((s.setGpr rt (s.withFreeHigh v)).setOvIf oe ov).setCr0WordIf rc false (s.withFreeHigh v) w).drew n))) s
      (xoChanges rt false oe rc) (fun t => P ((t.readGpr rt).setWidth 32) ∧ recordsOverflow oe ov s t ∧
        recordsSummary rc t ∧ (s.params.mode64 = false → recordsIf rc (t.readGpr rt) s t)) :=
  (completesWith_wordResult _ _ _ _ _ _).mono fun _ ⟨result, _, overflow, summary, record⟩ => by
    rw [result, State.loWord_withFreeHigh]
    exact ⟨holds, overflow, summary, record rfl⟩

theorem completesWith_highWordOut {v : Word} {P : Word → Prop} (holds : P v) :
    completesWith (highWordOut rt v rc s) s (xoChanges rt false false rc) (fun t => P ((t.readGpr rt).setWidth 32) ∧
      recordsSummary rc t ∧ (s.params.mode64 = false → recordsIf rc (t.readGpr rt) s t)) :=
  (completesWith_withFreeHigh (oe := false) (ov := false) holds).mono fun _ ⟨result, _, record⟩ => ⟨result, record⟩

end

/-- Settles O26: the halves of the exact product, each within its width. -/
theorem multiplies : Obligations.Multiplies := by
  intro s rt ra rb si oe rc a b wa wb c w
  refine ⟨?mulli, ?mulld, ?mullw, ?mulhd, ?mulhdu, ?mulhw, ?mulhwu⟩
  case mulli => exact completesWith_setGpr s rt _ ((State.readGpr_setGpr_self s rt _).trans (ofInt_toInt_mul a (sext64 si)))
  case mulld =>
    refine (completesWith_product (w := 64) (by omega)).mono fun t ⟨result, overflow, record⟩ => ?_
    exact ⟨result.trans (ofInt_toInt_mul a b), result ▸ overflow, record⟩
  case mullw =>
    refine (completesWith_product (w := 32) (by omega)).mono fun t ⟨result, overflow, record⟩ => ?_
    have word : (t.readGpr rt).setWidth 32 = BitVec.ofInt 32 (wa.toInt * wb.toInt) := result ▸ loWord_ofInt _
    exact ⟨result ▸ toInt_ofInt_wordProduct wa wb, word ▸ overflow, record⟩
  case mulhd => exact resultInto_xoResult (toInt_ofInt_highProduct a b (by omega))
  case mulhdu => exact resultInto_xoResult (toNat_ofNat_highProduct a b)
  case mulhw => exact completesWith_highWordOut (P := fun v => v.toInt = _) (toInt_ofInt_highProduct wa wb (by omega))
  case mulhwu => exact completesWith_highWordOut (P := fun v => v.toNat = _) (toNat_ofNat_highProduct wa wb)

/-! ### Quotients (R378 to R382) -/

/-- A division has a quotient unless it is by zero or of the most negative number by -1. -/
theorem badSignedDiv_iff {w : Nat} (x y : BitVec w) : badSignedDiv x y = true ↔ y = 0 ∨ (x = BitVec.intMin w ∧ y = -1) := by
  have ones : BitVec.allOnes w = -1 := BitVec.neg_one_eq_allOnes.symm
  simp [badSignedDiv, ones]

theorem badSignedDiv_eq_false {w : Nat} {x y : BitVec w} (nonzero : y ≠ 0) (fits : ¬ (x = BitVec.intMin w ∧ y = -1)) :
    badSignedDiv x y = false := by
  rw [← Bool.not_eq_true, badSignedDiv_iff, not_or]
  exact ⟨nonzero, fits⟩

theorem toInt_ofInt_tdiv {w : Nat} {x y : BitVec w} (fits : ¬ (x = BitVec.intMin w ∧ y = -1)) :
    (BitVec.ofInt w (x.toInt.tdiv y.toInt)).toInt = x.toInt.tdiv y.toInt := by
  rw [BitVec.toInt_ofInt, ← BitVec.toInt_sdiv]
  exact BitVec.toInt_sdiv_of_ne_or_ne x y (not_and_or.mp fits)

theorem toNat_ofNat_div {w : Nat} (x y : BitVec w) : (BitVec.ofNat w (x.toNat / y.toNat)).toNat = x.toNat / y.toNat := by
  rw [BitVec.toNat_ofNat, Nat.mod_eq_of_lt (Nat.lt_of_le_of_lt (Nat.div_le_self _ _) x.isLt)]

section
variable {s : State} {rt : Reg} {bad oe rc : Bool}

theorem completesWith_divideDouble {q : DWord} {P : DWord → Prop} (valid : bad = false) (holds : P q) :
    completesWith (divideDouble rt bad q oe rc s) s (xoChanges rt false oe rc) (fun t => P (t.readGpr rt) ∧
      recordsOverflow oe false s t ∧ recordsIf rc (t.readGpr rt) s t) := by
  rw [divideDouble, if_neg (by simp [valid])]
  exact completesWith_xoResult_of holds

theorem completesWith_divideDouble_bad {q : DWord} (invalid : bad = true) :
    completesWith (divideDouble rt bad q oe rc s) s (xoChanges rt false oe rc)
      (fun t => recordsOverflow oe true s t ∧ recordsSummary rc t) := by
  rw [divideDouble, if_pos invalid]
  exact (completesWith_wordResult _ _ _ _ _ _).mono fun _ ⟨_, _, overflow, summary, _⟩ => ⟨overflow, summary⟩

theorem completesWith_divideWord {q : Word} {P : Word → Prop} (valid : bad = false) (holds : P q) :
    completesWith (divideWord rt bad q oe rc s) s (xoChanges rt false oe rc) (fun t => P ((t.readGpr rt).setWidth 32) ∧
      recordsOverflow oe false s t ∧ recordsSummary rc t ∧
        (s.params.mode64 = false → recordsIf rc (t.readGpr rt) s t)) := by
  subst valid
  exact completesWith_withFreeHigh holds

theorem completesWith_divideWord_bad {q : Word} (invalid : bad = true) :
    completesWith (divideWord rt bad q oe rc s) s (xoChanges rt false oe rc)
      (fun t => recordsOverflow oe true s t ∧ recordsSummary rc t) := by
  subst invalid
  exact (completesWith_wordResult _ _ _ _ _ _).mono fun _ ⟨_, _, overflow, summary, _⟩ => ⟨overflow, summary⟩

end

/-- Settles O27: where there is a quotient it fits its width, and where there is none the model's test says so. -/
theorem divides : Obligations.Divides := by
  intro s rt ra rb oe rc a b wa wb c none double word
  refine ⟨fun nonzero fits => ?divd, fun h => ?divdBad, fun nonzero => ?divdu, fun h => ?divduBad,
    fun nonzero fits => ?divw, fun h => ?divwBad, fun nonzero => ?divwu, fun h => ?divwuBad⟩
  case divd =>
    exact completesWith_divideDouble (P := fun v => v.toInt = _) (badSignedDiv_eq_false nonzero fits) (toInt_ofInt_tdiv fits)
  case divdBad => exact completesWith_divideDouble_bad ((badSignedDiv_iff a b).mpr h)
  case divdu => exact completesWith_divideDouble (P := fun v => v.toNat = _) (beq_false_of_ne nonzero) (toNat_ofNat_div a b)
  case divduBad => exact completesWith_divideDouble_bad (beq_iff_eq.mpr h)
  case divw =>
    exact completesWith_divideWord (P := fun v => v.toInt = _) (badSignedDiv_eq_false nonzero fits) (toInt_ofInt_tdiv fits)
  case divwBad => exact completesWith_divideWord_bad ((badSignedDiv_iff wa wb).mpr h)
  case divwu => exact completesWith_divideWord (P := fun v => v.toNat = _) (beq_false_of_ne nonzero) (toNat_ofNat_div wa wb)
  case divwuBad => exact completesWith_divideWord_bad (beq_iff_eq.mpr h)

end Sys2Proof.Machine
end

section
/-! Fixed-point compares, traps and logical instructions: what they make of the operands as numbers and of the bits of a result
(R390 to R439). -/
namespace Sys2Proof.Machine

/-! ### Words extended to doublewords (R17) -/

theorem toInt_sext64 {w : Nat} (narrow : w ≤ 64) (x : BitVec w) : (sext64 x).toInt = x.toInt :=
  BitVec.toInt_signExtend_of_le narrow

/-- Extending the sign keeps the order of the unsigned numbers: those with the sign bit stay above those without. -/
theorem toNat_sext64_lt_iff (x y : Word) : (sext64 x).toNat < (sext64 y).toNat ↔ x.toNat < y.toNat := by
  have xLow := x.isLt
  have yLow := y.isLt
  have value (v : Word) : (sext64 v).toNat = v.toNat + if 2 ^ 31 ≤ v.toNat then 2 ^ 64 - 2 ^ 32 else 0 := by
    rw [sext64, BitVec.toNat_signExtend, BitVec.toNat_setWidth_of_le (by omega), BitVec.msb_eq_decide]
    simp only [decide_eq_true_eq]
  rw [value x, value y]
  split <;> split <;> omega

/-- A halfword extended to a word and then to a doubleword. -/
theorem sext64_signExtend_word (i : BitVec 16) : sext64 (i.signExtend 32) = sext64 i := by
  apply BitVec.eq_of_toInt_eq
  rw [toInt_sext64 (by omega), toInt_sext64 (by omega), BitVec.toInt_signExtend_of_le (by omega)]

theorem zext64_eq_ofNat {w : Nat} (x : BitVec w) : zext64 x = BitVec.ofNat 64 x.toNat := (BitVec.ofNat_toNat 64 x).symm

/-- UI with sixteen zeros on its right is 65536 times UI. -/
theorem shiftedUI_eq (ui : BitVec 16) : shiftedUI ui = BitVec.ofNat 64 (ui.toNat * 65536) := by
  have value : (ui ++ 0#16).toNat = ui.toNat * 65536 := by
    rw [BitVec.toNat_append, Nat.shiftLeft_eq]
    simp
  rw [shiftedUI, zext64_eq_ofNat, value]

/-! ### Compares (R390 to R394) -/

section
variable {w : Nat} (x y : BitVec w) (so : Bool)

theorem signedOrder_eq :
    signedOrder x y so = nibble (decide (x.toInt < y.toInt)) (decide (y.toInt < x.toInt)) (decide (x.toInt = y.toInt)) so := by
  simp only [signedOrder, BitVec.toInt_inj, Bool.beq_eq_decide_eq]

theorem unsignedOrder_eq : unsignedOrder x y so = nibble (decide ((x.toNat : Int) < y.toNat)) (decide ((y.toNat : Int) < x.toNat))
    (decide ((x.toNat : Int) = y.toNat)) so := by
  simp only [unsignedOrder, Int.ofNat_lt, Int.ofNat_inj, BitVec.toNat_inj, Bool.beq_eq_decide_eq]

end

section
variable (l : Bool) (v : DWord)

theorem toInt_signedOperand : (signedOperand l v).toInt = if l then v.toInt else (v.setWidth 32).toInt := by
  cases l with
  | true => rfl
  | false => exact toInt_sext64 (by omega) (loWord v)

theorem toNat_unsignedOperand : ((unsignedOperand l v).toNat : Int) = ((if l then v.toNat else v.toNat % 2 ^ 32 : Nat) : Int) := by
  cases l with
  | true => rfl
  | false =>
    have word : (zext64 (loWord v)).toNat = v.toNat % 2 ^ 32 := by
      rw [zext64, BitVec.toNat_setWidth_of_le (by omega), loWord, BitVec.toNat_setWidth]
    exact congrArg Nat.cast word

end

section
variable {s : State} {bf : FieldNum} {x y : DWord} {a b : Int}

theorem comparesInto_compareOut {c : BitVec 4} (order : c = nibble (decide (a < b)) (decide (b < a)) (decide (a = b)) s.so) :
    comparesInto (compareOut bf c s) bf a b s :=
  completesWith_registers rfl ((Leaves.refl _ s).setCrField bf c (List.mem_singleton.mpr rfl)) rfl
    ((State.crField_setCrField_self s bf c).trans order)

theorem comparesInto_signedOrder (first : x.toInt = a) (second : y.toInt = b) :
    comparesInto (compareOut bf (signedOrder x y s.so) s) bf a b s :=
  comparesInto_compareOut (first ▸ second ▸ signedOrder_eq x y s.so)

theorem comparesInto_unsignedOrder (first : (x.toNat : Int) = a) (second : (y.toNat : Int) = b) :
    comparesInto (compareOut bf (unsignedOrder x y s.so) s) bf a b s :=
  comparesInto_compareOut (first ▸ second ▸ unsignedOrder_eq x y s.so)

end

/-- Settles O28: an extended operand stands for the number that L selects. -/
theorem fixedPointCompares : Obligations.FixedPointCompares := by
  intro s bf l ra rb i signed unsigned
  refine ⟨?cmpi, ?cmp, ?cmpli, ?cmpl⟩
  case cmpi => exact comparesInto_signedOrder (toInt_signedOperand l _) (toInt_sext64 (by omega) i)
  case cmp => exact comparesInto_signedOrder (toInt_signedOperand l _) (toInt_signedOperand l _)
  case cmpli =>
    have immediate : (zext64 i).toNat = i.toNat := BitVec.toNat_setWidth_of_le (by omega)
    exact comparesInto_unsignedOrder (toNat_unsignedOperand l _) (congrArg Nat.cast immediate)
  case cmpl => exact comparesInto_unsignedOrder (toNat_unsignedOperand l _) (toNat_unsignedOperand l _)

/-! ### Traps (R400 to R404) -/

/-- Some condition that TO selects holds of the operands, `a` and `b` as signed and `ua` and `ub` as unsigned numbers (R400). -/
def trapSelected (sel : BitVec 5) (a b : Int) (ua ub : Nat) : Prop :=
  (bitAt sel 0 = true ∧ a < b) ∨ (bitAt sel 1 = true ∧ b < a) ∨ (bitAt sel 2 = true ∧ a = b) ∨
    (bitAt sel 3 = true ∧ ua < ub) ∨ (bitAt sel 4 = true ∧ ub < ua)

theorem trapsOn_iff {out : Out} {sel : BitVec 5} {a b : Int} {ua ub : Nat} {s : State} : trapsOn out sel a b ua ub s ↔
    (trapSelected sel a b ua ub → raises out (.trap s.pc) s) ∧
      (¬ trapSelected sel a b ua ub → completesWith out s {} (fun _ => True)) := Iff.rfl

theorem trapMet_iff (sel : BitVec 5) (x y : DWord) :
    trapMet sel x y = true ↔ trapSelected sel x.toInt y.toInt x.toNat y.toNat := by
  simp only [trapMet, trapSelected, Bool.or_eq_true, Bool.and_eq_true, decide_eq_true_eq, beq_iff_eq, BitVec.toInt_inj, or_assoc]

/-- Words and their sign extensions meet the same conditions, the unsigned ones too. -/
theorem trapSelected_sext64 (sel : BitVec 5) (x y : Word) :
    trapSelected sel (sext64 x).toInt (sext64 y).toInt (sext64 x).toNat (sext64 y).toNat ↔
      trapSelected sel x.toInt y.toInt x.toNat y.toNat := by
  have signed (v : Word) : (sext64 v).toInt = v.toInt := toInt_sext64 (by omega) v
  simp only [trapSelected, signed, toNat_sext64_lt_iff]

section
variable (s : State) (sel : BitVec 5)

theorem trapsOn_trapOut {x y : DWord} {a b : Int} {ua ub : Nat}
    (same : trapSelected sel x.toInt y.toInt x.toNat y.toNat ↔ trapSelected sel a b ua ub) :
    trapsOn (trapOut sel x y s) sel a b ua ub s := by
  rw [trapsOn_iff, ← same, ← trapMet_iff]
  refine ⟨fun met => ?trap, fun unmet => ?none⟩
  case trap => exact if_pos met
  case none =>
    rw [trapOut, if_neg unmet]
    exact completesWith_registers rfl (Leaves.refl _ s) rfl trivial

theorem trapsOn_trapOut_double (x y : DWord) : trapsOn (trapOut sel x y s) sel x.toInt y.toInt x.toNat y.toNat s :=
  trapsOn_trapOut s sel Iff.rfl

theorem trapsOn_trapOut_word (x y : Word) :
    trapsOn (trapOut sel (sext64 x) (sext64 y) s) sel x.toInt y.toInt x.toNat y.toNat s :=
  trapsOn_trapOut s sel (trapSelected_sext64 sel x y)

end

/-- Settles O29: a trap of doublewords or of words, the immediate extended to the operands' width. -/
theorem traps : Obligations.Traps := by
  intro s sel ra rb si a b wa wb
  refine ⟨?td, ?tdi, ?tw, ?twi⟩
  case td => exact trapsOn_trapOut_double s sel a b
  case tdi =>
    have number : (si.signExtend 64).toInt = si.toInt := toInt_sext64 (by omega) si
    exact number ▸ trapsOn_trapOut_double s sel a (si.signExtend 64)
  case tw => exact trapsOn_trapOut_word s sel wa wb
  case twi =>
    have number : (si.signExtend 32).toInt = si.toInt := BitVec.toInt_signExtend_of_le (by omega)
    have word := trapsOn_trapOut_word s sel wa (si.signExtend 32)
    rw [sext64_signExtend_word, number] at word
    exact word

/-! ### Logical instructions (R420 to R434) -/

section
variable {s : State} {ra : Reg} {res a b : DWord} {rc : Bool}

/-- The result and its record are those of an XO-form instruction that records no overflow. -/
theorem resultInto_logicalOut {P : DWord → Prop} (holds : P res) : resultInto (logicalOut ra res rc s) ra rc P s :=
  resultInto_xoResult holds

theorem combinesBits_logicalOut {f : Bool → Bool → Bool} (bits : ∀ p < 64, bitAt res p = f (bitAt a p) (bitAt b p)) :
    combinesBits (logicalOut ra res rc s) f ra a b rc s :=
  resultInto_logicalOut (P := fun v => ∀ p < 64, bitAt v p = f (bitAt a p) (bitAt b p)) bits

theorem combinesBits_and : combinesBits (logicalOut ra (a &&& b) rc s) (fun x y => x && y) ra a b rc s :=
  combinesBits_logicalOut fun p _ => bitAt_and a b p

theorem combinesBits_or : combinesBits (logicalOut ra (a ||| b) rc s) (fun x y => x || y) ra a b rc s :=
  combinesBits_logicalOut fun p _ => bitAt_or a b p

theorem combinesBits_xor : combinesBits (logicalOut ra (a ^^^ b) rc s) (fun x y => x != y) ra a b rc s :=
  combinesBits_logicalOut fun p _ => bitAt_xor a b p

end

/-- Settles O30: the bits of each operation; an immediate is the number that its extension or shift stands for. -/
theorem logicalInstructions : Obligations.LogicalInstructions := by
  intro s ra rs rb ui rc x y lo hi
  have low : zext64 ui = lo := zext64_eq_ofNat ui
  have high : shiftedUI ui = hi := shiftedUI_eq ui
  refine ⟨?andi, ?andis, ?ori, ?oris, ?xori, ?xoris, combinesBits_and, combinesBits_or, combinesBits_xor, ?nand, ?nor, ?eqv,
    ?andc, ?orc⟩
  case andi => exact low ▸ combinesBits_and
  case andis => exact high ▸ combinesBits_and
  case ori => exact low ▸ combinesBits_or
  case oris => exact high ▸ combinesBits_or
  case xori => exact low ▸ combinesBits_xor
  case xoris => exact high ▸ combinesBits_xor
  case nand => exact combinesBits_logicalOut fun p hp => by rw [bitAt_not _ p hp, bitAt_and]
  case nor => exact combinesBits_logicalOut fun p hp => by rw [bitAt_not _ p hp, bitAt_or]
  case eqv =>
    have same : ∀ a b : Bool, (!(a ^^ b)) = (a == b) := by decide
    exact combinesBits_logicalOut fun p hp => by rw [bitAt_not _ p hp, bitAt_xor, same]
  case andc => exact combinesBits_logicalOut fun p hp => by rw [bitAt_and, bitAt_not _ p hp]
  case orc => exact combinesBits_logicalOut fun p hp => by rw [bitAt_or, bitAt_not _ p hp]

/-! ### Sign extensions and counts of leading zeros (R435 to R439) -/

/-- The place of the first 1-bit, or the width if there is none. -/
def firstOne {w : Nat} (v : BitVec w) : Nat := (List.range w).findIdx (bitAt v)

section
variable {w : Nat} (v : BitVec w)

theorem firstOne_le : firstOne v ≤ w :=
  List.findIdx_le_length.trans_eq List.length_range

theorem bitAt_of_lt_firstOne {p : Nat} (before : p < firstOne v) : bitAt v p = false := by
  have zero := List.not_of_lt_findIdx before
  rwa [List.getElem_range] at zero

theorem bitAt_firstOne (found : firstOne v < w) : bitAt v (firstOne v) = true := by
  have inside : (List.range w).findIdx (bitAt v) < (List.range w).length := found.trans_eq List.length_range.symm
  have one := List.findIdx_getElem (w := inside)
  rwa [List.getElem_range] at one

/-- The zeros before the first 1-bit are as many as its place. -/
theorem toNat_leadingZeros (narrow : w ≤ 64) : (leadingZeros v).toNat = firstOne v := by
  have count : ((List.range w).takeWhile (fun p => !bitAt v p)).length = firstOne v := by
    simp only [List.takeWhile_eq_take_findIdx_not, List.length_take, Bool.not_not]
    exact Nat.min_eq_left List.findIdx_le_length
  have bound := firstOne_le v
  rw [leadingZeros, count, BitVec.toNat_ofNat, Nat.mod_eq_of_lt (by omega)]

end

/-- Settles O31: an extended number is unchanged, and the leading zeros end at the first 1-bit. -/
theorem extendSignAndCountZeros : Obligations.ExtendSignAndCountZeros := by
  intro s ra rs rc x
  refine ⟨resultInto_logicalOut (toInt_sext64 (by omega) _), resultInto_logicalOut (toInt_sext64 (by omega) _),
    resultInto_logicalOut (toInt_sext64 (by omega) _), resultInto_logicalOut ?cntlzd, resultInto_logicalOut ?cntlzw⟩
  case cntlzd =>
    rw [toNat_leadingZeros _ (by omega)]
    exact ⟨firstOne_le x, fun p before => bitAt_of_lt_firstOne x before, bitAt_firstOne x⟩
  case cntlzw =>
    rw [toNat_leadingZeros _ (by omega)]
    refine ⟨firstOne_le _, fun p before => ?zeros, fun found => ?one⟩
    case zeros => rw [← bitAt_loWord x p (before.trans_le (firstOne_le _)), bitAt_of_lt_firstOne _ before]
    case one => rw [← bitAt_loWord x _ found, bitAt_firstOne _ found]

end Sys2Proof.Machine
end

section
/-! Rotates and shifts: rotated data and masks bit by bit, what a shift keeps and what it shifts out (R21, R22, R445 to R468). -/
namespace Sys2Proof.Machine

/-! ### Bits of rotated, shifted and extended data -/

section
variable {p : Nat}

theorem bitAt_allOnes (w : Nat) : bitAt (BitVec.allOnes w) p = decide (p < w) := BitVec.getMsbD_allOnes

theorem bitAt_shiftLeft {w : Nat} (x : BitVec w) (d : Nat) : bitAt (x <<< d) p = bitAt x (p + d) := BitVec.getMsbD_shiftLeft x d

theorem bitAt_ushiftRight {w : Nat} (x : BitVec w) (d : Nat) (hp : p < w) :
    bitAt (x >>> d) p = (decide (d ≤ p) && bitAt x (p - d)) := by
  rw [bitAt, BitVec.getMsbD_ushiftRight, decide_eq_true hp, Bool.true_and, ← decide_not,
    decide_eq_decide.mpr Nat.not_lt]
  rfl

theorem bitAt_rotl64 (x : DWord) (n : Nat) (hp : p < 64) : bitAt (rotl64 x n) p = bitAt x ((p + n) % 64) := by
  rw [bitAt, rotl64, BitVec.getMsbD_rotateLeft, decide_eq_true hp, Bool.true_and, Nat.add_comm n p]
  rfl

/-- A word that stands in both halves is rotated as a word. -/
theorem bitAt_rotl32 (x : Word) (n : Nat) (hp : p < 64) : bitAt (rotl32 x n) p = bitAt x ((p + n) % 32) := by
  rw [rotl32, bitAt_rotl64 _ _ hp, bitAt, BitVec.getMsbD_append]
  split
  · next high => rw [show (p + n) % 64 - 32 = (p + n) % 32 by omega]; rfl
  · next low => rw [show (p + n) % 64 = (p + n) % 32 by omega]; rfl

theorem bitAt_mask64 {mb me : Nat} (hme : me < 64) (hp : p < 64) : bitAt (mask64 mb me) p = maskBit mb me p := by
  have start : bitAt (BitVec.allOnes 64 >>> mb) p = decide (mb ≤ p) := by
    rw [bitAt_ushiftRight _ _ hp, bitAt_allOnes, ← Bool.decide_and, decide_eq_decide]
    omega
  have stop : bitAt (BitVec.allOnes 64 <<< (63 - me)) p = decide (p ≤ me) := by
    rw [bitAt_shiftLeft, bitAt_allOnes, decide_eq_decide]
    omega
  unfold mask64 maskBit
  dsimp only
  split
  · rw [bitAt_and, start, stop, Bool.decide_and]
  · rw [bitAt_or, start, stop, Bool.or_comm, Bool.decide_or]

theorem bitAt_sshiftRight {w : Nat} (x : BitVec w) (d : Nat) (hp : p < w) :
    bitAt (x.sshiftRight d) p = if d ≤ p then bitAt x (p - d) else bitAt x 0 := by
  rw [bitAt, BitVec.getMsbD_sshiftRight, decide_eq_true hp, Bool.true_and]
  by_cases outside : p < d
  · rw [if_pos outside, if_neg (by omega)]
    exact BitVec.msb_eq_getMsbD_zero x
  · rw [if_neg outside, if_pos (by omega)]
    rfl

theorem bitAt_zext64 (x : Word) : bitAt (zext64 x) p = (decide (32 ≤ p) && bitAt x (p - 32)) := by
  rw [bitAt, zext64, BitVec.getMsbD_setWidth, show p + 32 - 64 = p - 32 by omega]
  rfl

theorem bitAt_sext64 (x : Word) (hp : p < 64) : bitAt (sext64 x) p = if 32 ≤ p then bitAt x (p - 32) else bitAt x 0 := by
  rw [bitAt, sext64, BitVec.getMsbD_signExtend, decide_eq_true hp, Bool.true_and, show p + 32 - 64 = p - 32 by omega]
  rfl

theorem bitAt_signFill (b : Bool) (hp : p < 64) : bitAt (signFill b) p = b := by
  cases b with
  | false => exact bitAt_zero 64 p
  | true => exact (bitAt_allOnes 64).trans (decide_eq_true hp)

end

/-! ### Counts (R460) -/

theorem count6_eq (v : DWord) : count6 v = v.toNat % 64 := by
  simp [count6, fld, BitVec.extractLsb'_toNat]

theorem count5_eq (v : DWord) : count5 v = v.toNat % 32 := by
  simp [count5, fld, BitVec.extractLsb'_toNat]

/-- The bit of a shift count that makes a doubleword shift one of 64 or more. -/
theorem bitAt_57 (v : DWord) : bitAt v 57 = decide (64 ≤ v.toNat % 128) := by
  rw [bitAt_eq_getLsbD _ _ (by omega), BitVec.getLsbD, Nat.testBit_eq_decide_div_mod_eq, decide_eq_decide]
  omega

/-- The bit of a shift count that makes a word shift one of 32 or more. -/
theorem bitAt_58 (v : DWord) : bitAt v 58 = decide (32 ≤ v.toNat % 64) := by
  rw [bitAt_eq_getLsbD _ _ (by omega), BitVec.getLsbD, Nat.testBit_eq_decide_div_mod_eq, decide_eq_decide]
  omega

/-! ### Rotates (R446 to R454) -/

/-- Inside the mask the bits of `v` are those of `src`; outside it they are those of `old`, or zeros if these are not kept. -/
def bitsUnderMask (src : Nat → Bool) (old : DWord) (mb me : Nat) (keep : Bool) (v : DWord) : Prop :=
  ∀ p : Nat, p < 64 → bitAt v p = if maskBit mb me p then src p else (keep && bitAt old p)

section
variable {src : Nat → Bool} {old r : DWord} {mb me : Nat} (hme : me < 64) (rotated : ∀ p < 64, bitAt r p = src p)
include hme rotated

theorem bitsUnderMask_and : bitsUnderMask src old mb me false (r &&& mask64 mb me) := by
  intro p hp
  rw [bitAt_and, rotated p hp, bitAt_mask64 hme hp]
  cases maskBit mb me p <;> simp

theorem bitsUnderMask_insertMasked : bitsUnderMask src old mb me true (insertMasked r old (mask64 mb me)) := by
  intro p hp
  rw [insertMasked, bitAt_or, bitAt_and, bitAt_and, bitAt_not _ _ hp, rotated p hp, bitAt_mask64 hme hp]
  cases maskBit mb me p <;> simp

end

section
variable {s : State} {ra rs : Reg} {rc : Bool} {n : Nat}

/-- A rotate or logical shift records its result as a logical instruction does. -/
theorem resultInto_rotateOut {res : DWord} {P : DWord → Prop} (holds : P res) : resultInto (rotateOut ra res rc s) ra rc P s :=
  resultInto_logicalOut holds

section
variable {mb me : Nat} (hme : me < 64)
include hme

theorem rotatesDouble_and :
    rotatesDouble (rotateOut ra (rotl64 (s.readGpr rs) n &&& mask64 mb me) rc s) ra rs n mb me false rc s :=
  resultInto_rotateOut (P := bitsUnderMask _ (s.readGpr ra) mb me false)
    (bitsUnderMask_and hme fun _ hp => bitAt_rotl64 _ n hp)

theorem rotatesDouble_insert :
    rotatesDouble (rotateOut ra (insertMasked (rotl64 (s.readGpr rs) n) (s.readGpr ra) (mask64 mb me)) rc s)
      ra rs n mb me true rc s :=
  resultInto_rotateOut (P := bitsUnderMask _ (s.readGpr ra) mb me true)
    (bitsUnderMask_insertMasked hme fun _ hp => bitAt_rotl64 _ n hp)

end

section
variable {mb me : BitVec 5}

/-- The bits of a doubleword's low-order word, rotated. -/
theorem bitAt_rotl32_loWord (x : DWord) {p : Nat} (hp : p < 64) :
    bitAt (rotl32 (loWord x) n) p = bitAt x (32 + (p + n) % 32) := by
  rw [bitAt_rotl32 _ _ hp, bitAt_loWord _ _ (Nat.mod_lt _ (by omega))]

/-- The mask of a word rotate ends in the low-order half. -/
theorem maskWord_last_lt (me : BitVec 5) : me.toNat + 32 < 64 := Nat.add_lt_add_right me.isLt 32

theorem rotatesWord_and : rotatesWord (rotateOut ra (rotl32 (loWord (s.readGpr rs)) n &&& maskWord mb me) rc s)
    ra rs n mb.toNat me.toNat false rc s :=
  resultInto_rotateOut (P := bitsUnderMask _ (s.readGpr ra) (mb.toNat + 32) (me.toNat + 32) false)
    (bitsUnderMask_and (maskWord_last_lt me) fun _ hp => bitAt_rotl32_loWord _ hp)

theorem rotatesWord_insert :
    rotatesWord (rotateOut ra (insertMasked (rotl32 (loWord (s.readGpr rs)) n) (s.readGpr ra) (maskWord mb me)) rc s)
      ra rs n mb.toNat me.toNat true rc s :=
  resultInto_rotateOut (P := bitsUnderMask _ (s.readGpr ra) (mb.toNat + 32) (me.toNat + 32) true)
    (bitsUnderMask_insertMasked (maskWord_last_lt me) fun _ hp => bitAt_rotl32_loWord _ hp)

end

end

/-- Settles O32: the result under the mask is the rotated data, and outside it zeros or the old RA. -/
theorem rotates : Obligations.Rotates := by
  intro s ra rs rb sh m n mb me rc r
  have six : count6 (s.readGpr rb) = r % 64 := count6_eq _
  have five : count5 (s.readGpr rb) = r % 32 := count5_eq _
  have hm := m.isLt
  refine ⟨rotatesDouble_and (by omega), rotatesDouble_and hm, rotatesDouble_and (by omega), ?rldcl, ?rldcr,
    rotatesDouble_insert (by omega), rotatesWord_and, ?rlwnm, rotatesWord_insert⟩
  case rldcl => exact six ▸ rotatesDouble_and (by omega)
  case rldcr => exact six ▸ rotatesDouble_and hm
  case rlwnm => exact five ▸ rotatesWord_and

/-! ### Masks of shifts (R460) -/

section
variable (x b : DWord)

theorem bitAt_shiftMask {zero : Bool} {mb me p : Nat} (hme : me < 64) (hp : p < 64) :
    bitAt (shiftMask zero (mask64 mb me)) p = (!zero && maskBit mb me p) := by
  cases zero with
  | false => exact bitAt_mask64 hme hp
  | true => exact bitAt_zero 64 p

/-- A mask that runs to the last bit. -/
theorem bitAt_mask64_last {mb p : Nat} (hmb : mb < 64) (hp : p < 64) : bitAt (mask64 mb 63) p = decide (mb ≤ p) := by
  rw [bitAt_mask64 (by omega) hp, maskBit, if_pos (by omega), decide_eq_decide]
  omega

/-- The mask of a left shift of a doubleword: the bits that come from within it. -/
theorem bitAt_mask_sld {p : Nat} (hp : p < 64) :
    bitAt (shiftMask (bitAt b 57) (mask64 0 (63 - count6 b))) p = decide (p + b.toNat % 128 < 64) := by
  rw [bitAt_shiftMask (by omega) hp, bitAt_57, maskBit, if_pos (Nat.zero_le _), count6_eq, ← decide_not, ← Bool.decide_and,
    decide_eq_decide]
  omega

/-- The mask of a right shift of a doubleword. -/
theorem bitAt_mask_srd {p : Nat} (hp : p < 64) :
    bitAt (shiftMask (bitAt b 57) (mask64 (count6 b) 63)) p = decide (b.toNat % 128 ≤ p) := by
  rw [bitAt_shiftMask (by omega) hp, bitAt_57, maskBit, count6_eq, if_pos (by omega), ← decide_not, ← Bool.decide_and,
    decide_eq_decide]
  omega

/-- The mask of a left shift of a word. -/
theorem bitAt_mask_slw {p : Nat} (hp : p < 64) :
    bitAt (shiftMask (bitAt b 58) (mask64 32 (63 - count5 b))) p = decide (32 ≤ p ∧ p + b.toNat % 64 < 64) := by
  rw [bitAt_shiftMask (by omega) hp, bitAt_58, maskBit, count5_eq, if_pos (by omega), ← decide_not, ← Bool.decide_and,
    decide_eq_decide]
  omega

/-- The mask of a right shift of a word. -/
theorem bitAt_mask_srw {p : Nat} (hp : p < 64) :
    bitAt (shiftMask (bitAt b 58) (mask64 (count5 b + 32) 63)) p = decide (b.toNat % 64 + 32 ≤ p) := by
  rw [bitAt_shiftMask (by omega) hp, bitAt_58, maskBit, count5_eq, if_pos (by omega), ← decide_not, ← Bool.decide_and,
    decide_eq_decide]
  omega

/-! ### Logical shifts, as shifts of bit vectors (R461 to R464) -/

theorem sld_eq_shiftLeft :
    rotl64 x (count6 b) &&& shiftMask (bitAt b 57) (mask64 0 (63 - count6 b)) = x <<< (b.toNat % 128) := by
  apply eq_of_bitAt
  intro p hp
  rw [bitAt_and, bitAt_mask_sld b hp, bitAt_rotl64 _ _ hp, bitAt_shiftLeft, count6_eq]
  by_cases inside : p + b.toNat % 128 < 64
  · rw [show (p + b.toNat % 64) % 64 = p + b.toNat % 128 by omega, decide_eq_true inside, Bool.and_true]
  · rw [decide_eq_false inside, Bool.and_false, bitAt_ge _ _ (by omega)]

theorem srd_eq_ushiftRight :
    rotl64 x (64 - count6 b) &&& shiftMask (bitAt b 57) (mask64 (count6 b) 63) = x >>> (b.toNat % 128) := by
  apply eq_of_bitAt
  intro p hp
  rw [bitAt_and, bitAt_mask_srd b hp, bitAt_rotl64 _ _ hp, bitAt_ushiftRight _ _ hp, count6_eq, Bool.and_comm]
  by_cases inside : b.toNat % 128 ≤ p
  · rw [show (p + (64 - b.toNat % 64)) % 64 = p - b.toNat % 128 by omega]
  · rw [decide_eq_false inside, Bool.false_and, Bool.false_and]

theorem slw_eq_shiftLeft (y : Word) :
    rotl32 y (count5 b) &&& shiftMask (bitAt b 58) (mask64 32 (63 - count5 b)) = zext64 (y <<< (b.toNat % 64)) := by
  apply eq_of_bitAt
  intro p hp
  rw [bitAt_and, bitAt_mask_slw b hp, bitAt_rotl32 _ _ hp, bitAt_zext64, bitAt_shiftLeft, count5_eq]
  by_cases inside : 32 ≤ p ∧ p + b.toNat % 64 < 64
  · rw [show (p + b.toNat % 32) % 32 = p - 32 + b.toNat % 64 by omega, decide_eq_true inside, decide_eq_true inside.1,
      Bool.and_true, Bool.true_and]
  · rw [decide_eq_false inside, Bool.and_false]
    by_cases low : 32 ≤ p
    · rw [bitAt_ge _ _ (by omega), Bool.and_false]
    · rw [decide_eq_false low, Bool.false_and]

theorem srw_eq_ushiftRight (y : Word) :
    rotl32 y (64 - count5 b) &&& shiftMask (bitAt b 58) (mask64 (count5 b + 32) 63) = zext64 (y >>> (b.toNat % 64)) := by
  apply eq_of_bitAt
  intro p hp
  rw [bitAt_and, bitAt_mask_srw b hp, bitAt_rotl32 _ _ hp, bitAt_zext64, count5_eq]
  by_cases low : 32 ≤ p
  · rw [decide_eq_true low, Bool.true_and, bitAt_ushiftRight _ _ (by omega), Bool.and_comm]
    by_cases inside : b.toNat % 64 + 32 ≤ p
    · rw [show (p + (64 - b.toNat % 32)) % 32 = p - 32 - b.toNat % 64 by omega, decide_eq_true inside,
        decide_eq_true (by omega)]
    · rw [decide_eq_false inside, decide_eq_false (by omega), Bool.false_and, Bool.false_and]
  · rw [decide_eq_false low, decide_eq_false (by omega), Bool.false_and, Bool.and_false]

end

section
variable {w : Nat} (x : BitVec w) (d : Nat)

theorem toNat_shiftLeft_eq_mul : (x <<< d).toNat = x.toNat * 2 ^ d % 2 ^ w := by
  rw [BitVec.toNat_shiftLeft, Nat.shiftLeft_eq]

theorem toNat_ushiftRight_eq_div : (x >>> d).toNat = x.toNat / 2 ^ d := by
  rw [BitVec.toNat_ushiftRight, Nat.shiftRight_eq_div_pow]

end

theorem toNat_zext64_word (y : Word) : (zext64 y).toNat = y.toNat := BitVec.toNat_setWidth_of_le (by omega)

theorem toNat_loWord (x : DWord) : (loWord x).toNat = x.toNat % 2 ^ 32 := BitVec.toNat_setWidth ..

/-- Settles O33: each result is that of a shift of a doubleword or a word by the whole count. -/
theorem logicalShifts : Obligations.LogicalShifts := by
  intro s ra rs rb rc x d w
  refine ⟨resultInto_rotateOut ?sld, resultInto_rotateOut ?srd, resultInto_rotateOut ?slw, resultInto_rotateOut ?srw⟩
  case sld => rw [sld_eq_shiftLeft, toNat_shiftLeft_eq_mul]
  case srd => rw [srd_eq_ushiftRight, toNat_ushiftRight_eq_div]
  case slw => rw [slw_eq_shiftLeft, toNat_zext64_word, toNat_shiftLeft_eq_mul, toNat_loWord]
  case srw => rw [srw_eq_ushiftRight, toNat_zext64_word, toNat_ushiftRight_eq_div, toNat_loWord]

/-! ### Algebraic shifts (R465 to R468) -/

section
variable {w : Nat} (x : BitVec w)

theorem ne_zero_iff_exists_bitAt : x ≠ 0 ↔ ∃ p < w, bitAt x p = true := by
  constructor
  · intro nonzero
    by_contra! none
    exact nonzero (eq_of_bitAt x 0 fun p hp => (Bool.eq_false_iff.mpr (none p hp)).trans (bitAt_zero w p).symm)
  · rintro ⟨p, -, one⟩ rfl
    simp [bitAt] at one

/-- A number is no multiple of `2^d` when one of its `d` low-order bits is 1; those past the width are copies of its sign. -/
theorem toInt_emod_two_pow_ne_zero_iff (d : Nat) : x.toInt % 2 ^ d ≠ 0 ↔ ∃ p < w, w ≤ p + d ∧ bitAt x p = true := by
  have residue : x.toInt % 2 ^ d = (x.signExtend d).toNat := by
    rw [BitVec.signExtend, BitVec.toNat_ofInt, Int.toNat_of_nonneg (Int.emod_nonneg _ (by positivity))]
    norm_cast
  have extended (p : Nat) (hp : p < d) : bitAt (x.signExtend d) p = if d - w ≤ p then bitAt x (p + w - d) else bitAt x 0 := by
    rw [bitAt, BitVec.getMsbD_signExtend, decide_eq_true hp, Bool.true_and, BitVec.msb_eq_getMsbD_zero]
    rfl
  have nonzero : x.toInt % 2 ^ d ≠ 0 ↔ x.signExtend d ≠ 0 := by
    rw [residue, Int.natCast_ne_zero, ← BitVec.toNat_zero, BitVec.toNat_ne_iff_ne]
    rfl
  rw [nonzero, ne_zero_iff_exists_bitAt]
  constructor
  · rintro ⟨p, hp, one⟩
    rw [extended p hp] at one
    split at one
    · exact ⟨p + w - d, by omega, by omega, one⟩
    · next copies =>
      have width : 0 < w := by
        by_contra! empty
        simp [bitAt_ge x 0 empty] at one
      exact ⟨0, width, by omega, one⟩
  · rintro ⟨q, hq, low, one⟩
    refine ⟨q + d - w, by omega, ?_⟩
    rw [extended _ (by omega), if_pos (by omega), show q + d - w + w - d = q by omega]
    exact one

theorem toInt_sshiftRight_eq_div (d : Nat) : (x.sshiftRight d).toInt = x.toInt / 2 ^ d := by
  rw [BitVec.toInt_sshiftRight, Int.shiftRight_eq_div_pow]
  norm_cast

end

/-- Rotating right by a count modulo the width `w` brings to the places below the count the bits that a shift loses. -/
theorem shiftedOut_eq {w : Nat} (width : w = 32 ∨ w = 64) (x lost : BitVec w) (d : Nat)
    (bits : ∀ p < w, bitAt lost p = (decide (p < d) && bitAt x ((p + (64 - d % w)) % w))) :
    (lost != 0) = decide (x.toInt % 2 ^ d ≠ 0) := by
  rw [Bool.eq_iff_iff, bne_iff_ne, decide_eq_true_iff, ne_zero_iff_exists_bitAt, toInt_emod_two_pow_ne_zero_iff]
  constructor
  · rintro ⟨p, hp, one⟩
    rw [bits p hp, Bool.and_eq_true, decide_eq_true_eq] at one
    exact ⟨_, Nat.mod_lt _ (by omega), by rcases width with rfl | rfl <;> omega, one.2⟩
  · rintro ⟨q, hq, out, one⟩
    refine ⟨(q + d) % w, Nat.mod_lt _ (by omega), ?_⟩
    have back : ((q + d) % w + (64 - d % w)) % w = q := by rcases width with rfl | rfl <;> omega
    rw [bits _ (Nat.mod_lt _ (by omega)), back, one, Bool.and_true, decide_eq_true_eq]
    rcases width with rfl | rfl <;> omega

section
variable {s : State} {ra : Reg} {rc sign lost carry : Bool} {r m : DWord}

/-- An algebraic shift records its result and its carry as a sum with carry does. -/
theorem shiftsAlgebraic_shiftAlgebraicOut {P : DWord → Prop} (holds : P ((r &&& m) ||| (signFill sign &&& ~~~m)))
    (out : (sign && lost) = carry) : shiftsAlgebraic (shiftAlgebraicOut ra r m sign lost rc s) ra rc carry P s :=
  (completesWith_xoResult (carries := true) (oe := false) _ false
    ((Leaves.refl _ s).setCa (sign && lost) (by simp [xoChanges, sumBits])) rfl (State.so_setCa s _)).mono
    fun _ ⟨result, ca, _, record⟩ => ⟨result ▸ holds, ca.trans ((State.ca_setCa s _).trans out), result ▸ record⟩

/-- Under the mask stand the rotated bits, elsewhere copies of the sign. -/
theorem bitAt_filled {p : Nat} (hp : p < 64) :
    bitAt ((r &&& m) ||| (signFill sign &&& ~~~m)) p = if bitAt m p then bitAt r p else sign := by
  rw [bitAt_or, bitAt_and, bitAt_and, bitAt_not _ _ hp, bitAt_signFill _ hp]
  cases bitAt m p <;> simp

end

/-- The first bit is the sign. -/
theorem bitAt_first_eq {w : Nat} (x : BitVec w) : bitAt x 0 = decide (x.toInt < 0) :=
  (BitVec.msb_eq_getMsbD_zero x).symm.trans BitVec.msb_eq_toInt

section
variable {s : State} {ra : Reg} {rc : Bool} {m : DWord} {d : Nat}

/-- A doubleword shifted by `d`, whatever gives the mask. -/
theorem shiftsAlgebraic_double (x : DWord) (mask : ∀ p < 64, bitAt m p = decide (d ≤ p)) :
    shiftsAlgebraic (shiftAlgebraicOut ra (rotl64 x (64 - d % 64)) m (bitAt x 0)
      (rotl64 x (64 - d % 64) &&& ~~~m != 0) rc s) ra rc (decide (x.toInt < 0 ∧ x.toInt % 2 ^ d ≠ 0))
      (fun v => v.toInt = x.toInt / 2 ^ d) s := by
  refine shiftsAlgebraic_shiftAlgebraicOut ?quotient ?carry
  case quotient =>
    have shifted : (rotl64 x (64 - d % 64) &&& m) ||| (signFill (bitAt x 0) &&& ~~~m) = x.sshiftRight d := by
      apply eq_of_bitAt
      intro p hp
      rw [bitAt_filled hp, mask p hp, bitAt_rotl64 _ _ hp, bitAt_sshiftRight _ _ hp]
      simp only [decide_eq_true_eq]
      split
      · next inside => rw [show (p + (64 - d % 64)) % 64 = p - d by omega]
      · rfl
    rw [shifted, toInt_sshiftRight_eq_div]
  case carry =>
    have lost := shiftedOut_eq (.inr rfl) x (rotl64 x (64 - d % 64) &&& ~~~m) d fun p hp => by
      rw [bitAt_and, bitAt_not _ _ hp, mask p hp, bitAt_rotl64 _ _ hp, Bool.and_comm, ← decide_not,
        decide_eq_decide.mpr Nat.not_le]
    rw [bitAt_first_eq, Bool.decide_and, lost]

/-- A word shifted by `d`, the rotated word standing in both halves. -/
theorem shiftsAlgebraic_word (x : DWord) (mask : ∀ p < 64, bitAt m p = decide (d + 32 ≤ p)) :
    shiftsAlgebraic (shiftAlgebraicOut ra (rotl32 (loWord x) (64 - d % 32)) m (bitAt x 32)
      (loWord (rotl32 (loWord x) (64 - d % 32) &&& ~~~m) != 0) rc s) ra rc
      (decide ((loWord x).toInt < 0 ∧ (loWord x).toInt % 2 ^ d ≠ 0)) (fun v => v.toInt = (loWord x).toInt / 2 ^ d) s := by
  have sign : bitAt x 32 = bitAt (loWord x) 0 := (bitAt_loWord x 0 (by omega)).symm
  rw [sign]
  generalize loWord x = y
  refine shiftsAlgebraic_shiftAlgebraicOut ?quotient ?carry
  case quotient =>
    have shifted : (rotl32 y (64 - d % 32) &&& m) ||| (signFill (bitAt y 0) &&& ~~~m) = sext64 (y.sshiftRight d) := by
      apply eq_of_bitAt
      intro p hp
      rw [bitAt_filled hp, mask p hp, bitAt_rotl32 _ _ hp, bitAt_sext64 _ hp]
      by_cases low : 32 ≤ p
      · rw [if_pos low, bitAt_sshiftRight _ _ (by omega)]
        simp only [decide_eq_true_eq]
        by_cases inside : d + 32 ≤ p
        · rw [if_pos inside, if_pos (by omega), show (p + (64 - d % 32)) % 32 = p - 32 - d by omega]
        · rw [if_neg inside, if_neg (by omega)]
      · rw [if_neg low, decide_eq_false (by omega), if_neg (by simp), bitAt_sshiftRight _ _ (by omega), Nat.zero_sub, ite_self]
    rw [shifted, toInt_sext64 (by omega), toInt_sshiftRight_eq_div]
  case carry =>
    have lost := shiftedOut_eq (.inl rfl) y (loWord (rotl32 y (64 - d % 32) &&& ~~~m)) d fun p hp => by
      rw [bitAt_loWord _ _ hp, bitAt_and, bitAt_not _ _ (by omega), mask _ (by omega), bitAt_rotl32 _ _ (by omega), Bool.and_comm,
        ← decide_not, show (32 + p + (64 - d % 32)) % 32 = (p + (64 - d % 32)) % 32 by omega,
        decide_eq_decide.mpr (show ¬ d + 32 ≤ 32 + p ↔ p < d by omega)]
    rw [bitAt_first_eq, Bool.decide_and, lost]

end

/-- Settles O34: the count modulo the width rotates, the whole count masks. -/
theorem algebraicShifts : Obligations.AlgebraicShifts := by
  intro s ra rs rb sh n rc x y d w
  have hsh := sh.isLt
  have hn := n.isLt
  have six : count6 (s.readGpr rb) = d % 64 := by rw [count6_eq]; omega
  have five : count5 (s.readGpr rb) = w % 32 := by rw [count5_eq]; omega
  refine ⟨?sradi, ?srawi, ?srad, ?sraw⟩
  case sradi =>
    have shifts := shiftsAlgebraic_double (s := s) (ra := ra) (rc := rc) (s.readGpr rs) fun p hp => bitAt_mask64_last hsh hp
    rwa [Nat.mod_eq_of_lt hsh] at shifts
  case srawi =>
    have shifts := shiftsAlgebraic_word (s := s) (ra := ra) (rc := rc) (d := n.toNat) (s.readGpr rs) fun p hp =>
      bitAt_mask64_last (by omega) hp
    rwa [Nat.mod_eq_of_lt hn] at shifts
  case srad =>
    have shifts := shiftsAlgebraic_double (s := s) (ra := ra) (rc := rc) (s.readGpr rs) fun p hp =>
      bitAt_mask_srd (s.readGpr rb) hp
    rwa [← six] at shifts
  case sraw =>
    have shifts := shiftsAlgebraic_word (s := s) (ra := ra) (rc := rc) (s.readGpr rs) fun p hp =>
      bitAt_mask_srw (s.readGpr rb) hp
    rwa [← five] at shifts

end Sys2Proof.Machine
end

section
/-! The moves to and from the Condition Register (R503 to R507). -/
namespace Sys2Proof.Machine

/-! ### Fields of CR (R47) -/

theorem fld_loWord (x : DWord) {p n : Nat} (h : p + n ≤ 32) : fld (loWord x) p n = fld x (32 + p) n := by
  apply eq_of_bitAt
  intro q hq
  rw [bitAt_fld _ _ _ _ h hq, bitAt_fld _ _ _ _ (by omega) hq, bitAt_loWord _ _ (by omega), Nat.add_assoc]

theorem fld_append_word (hi lo : Word) {p n : Nat} (h : p + n ≤ 32) : fld (hi ++ lo) (32 + p) n = fld lo p n := by
  rw [← fld_loWord _ h, loWord, BitVec.setWidth_append_eq_right]

/-- A selected field is that of the new value, any other that of the old one (R503). -/
theorem fld_replaceFields (old v : Word) (fxm : BitVec 8) (f : FieldNum) : fld (replaceFields old v fxm) (4 * f.toNat) 4 =
    if bitAt fxm f.toNat then fld v (4 * f.toNat) 4 else fld old (4 * f.toNat) 4 := by
  have hf := f.isLt
  apply eq_of_bitAt
  intro q hq
  rw [bitAt_fld _ _ _ _ (by omega) hq, bitAt_replaceFields _ _ _ _ (by omega), show (4 * f.toNat + q) / 4 = f.toNat by omega]
  split <;> rw [bitAt_fld _ _ _ _ (by omega) hq]

/-- The fields of CR, all of them. -/
def everyField : List FieldNum := [0, 1, 2, 3, 4, 5, 6, 7]

theorem mem_everyField : ∀ f : FieldNum, f ∈ everyField := by decide

/-! ### Field masks with one bit (R505) -/

section
variable {fxm : BitVec 8} {n : FieldNum} (selected : ∀ m : FieldNum, bitAt fxm m.toNat = decide (m = n))
include selected

theorem fieldMask_eq : fxm = setBitAt 0 n.toNat true := by
  have hn := n.isLt
  apply eq_of_bitAt
  intro p hp
  have number : (BitVec.ofNat 3 p).toNat = p := by rw [BitVec.toNat_ofNat, Nat.mod_eq_of_lt (by omega)]
  have place : BitVec.ofNat 3 p = n ↔ p = n.toNat := by rw [← BitVec.toNat_inj, number]
  have bits := selected (BitVec.ofNat 3 p)
  rw [number, decide_eq_decide.mpr place] at bits
  rw [bits, bitAt_setBitAt _ _ _ _ hn hp]
  by_cases h : p = n.toNat
  · rw [if_pos h, decide_eq_true h]
  · rw [if_neg h, decide_eq_false h]
    exact (bitAt_zero 8 p).symm

theorem oneField_of_selected : oneField fxm = true := by
  have masks : ∀ n : FieldNum, oneField (setBitAt 0 n.toNat true) = true := by decide
  exact fieldMask_eq selected ▸ masks n

end

/-! ### Moves to CR (R503, R505) -/

section
variable (s : State) (fxm : BitVec 8)

/-- The selected fields of CR are those of the low-order word of `v`, the others as they were. -/
def fieldsMoved (v : DWord) (t : State) : Prop :=
  ∀ f : FieldNum, t.crField f = if bitAt fxm f.toNat then fld v (32 + 4 * f.toNat) 4 else s.crField f

theorem fieldsMoved_setCr (v : DWord) : fieldsMoved s fxm v (s.setCr (replaceFields s.cr (loWord v) fxm)) := by
  intro f
  have hf := f.isLt
  rw [State.crField, State.setCr_cr, fld_replaceFields, fld_loWord _ (by omega)]
  rfl

theorem completesWith_moveFields {fields : List FieldNum} (v : DWord)
    (covers : ∀ f : FieldNum, f ∉ fields → bitAt fxm f.toNat = false) :
    completesWith (.next (advance (s.setCr (replaceFields s.cr (loWord v) fxm)))) s { cr := fields } (fieldsMoved s fxm v) := by
  have moved := fieldsMoved_setCr s fxm v
  refine completesWith_registers rfl ((Leaves.refl _ s).setCr _ fun f other => (moved f).trans ?_) rfl moved
  rw [if_neg (by simp [covers f other])]

end

/-! ### The instructions -/

section
variable {s : State} {r : Reg} {fxm : BitVec 8} {bf : FieldNum}

theorem exec_mtocrf_of_one (facility : s.params.hasOcrf = true) (one : oneField fxm = true) :
    exec (.mtocrf fxm r) s = .next (advance (s.setCr (replaceFields s.cr (loWord (s.readGpr r)) fxm))) := by
  show execMtocrf fxm r s = _
  rw [execMtocrf, facility_check facility, if_pos one]

theorem exec_mtocrf_of_others (facility : s.params.hasOcrf = true) (others : ¬ oneField fxm = true) :
    exec (.mtocrf fxm r) s = .next (advance ((s.setCr (loWord (s.free 0))).drew 1)) := by
  show execMtocrf fxm r s = _
  rw [execMtocrf, facility_check facility, if_neg others]

/-- What `mfocrf` reads: an undefined value, but for the one field that is selected (R506). -/
def State.ocrfValue (s : State) (fxm : BitVec 8) : DWord :=
  if oneField fxm then hiWord (s.free 0) ++ replaceFields (loWord (s.free 0)) s.cr fxm else s.free 0

theorem completesWith_mfocrf (facility : s.params.hasOcrf = true) : completesWith (exec (.mfocrf r fxm) s) s { gprs := [r] }
    (fun t => t.readGpr r = s.ocrfValue fxm) := by
  show completesWith (execMfocrf r fxm s) s _ _
  rw [execMfocrf, facility_check facility]
  exact completesWith_registers rfl (((Leaves.refl _ s).setGpr r _ (List.mem_singleton.mpr rfl)).drew 1) rfl
    (State.readGpr_setGpr_self s r _)

theorem fld_ocrfValue {n : FieldNum} (one : oneField fxm = true) (bit : bitAt fxm n.toNat = true) :
    fld (s.ocrfValue fxm) (32 + 4 * n.toNat) 4 = s.crField n := by
  have hn := n.isLt
  rw [State.ocrfValue, if_pos one, fld_append_word _ _ (by omega), fld_replaceFields, if_pos bit]
  rfl

theorem completesWith_mtocrf (facility : s.params.hasOcrf = true) :
    completesWith (exec (.mtocrf fxm r) s) s { cr := everyField } (fun _ => True) := by
  by_cases one : oneField fxm = true
  · rw [exec_mtocrf_of_one facility one]
    exact (completesWith_moveFields s fxm _ fun f other => absurd (mem_everyField f) other).mono fun _ _ => trivial
  · rw [exec_mtocrf_of_others facility one]
    exact completesWith_registers rfl
      (((Leaves.refl _ s).setCr _ fun f other => absurd (mem_everyField f) other).drew 1) rfl trivial

/-- XER[32:35] as `mcrxr` reads it: SO, OV and CA, and the reserved bit 35 if reserved bits are read as last written (R64). -/
theorem bitAt_readXer_35 : bitAt s.readXer 35 = (bitAt s.xer 35 && decide (s.params.reservedReads = .lastWritten)) := by
  rw [State.readXer_eq]
  cases s.params.reservedReads with
  | zero =>
    rw [if_pos rfl, bitAt_and, bitAt_xerDefined 35 (by omega)]
    rfl
  | lastWritten => exact (Bool.and_true _).symm

theorem bitAt_readXer_defined {p : Nat} (lo : 32 ≤ p) (hi : p ≤ 34) : bitAt s.readXer p = bitAt s.xer p := by
  rw [State.readXer_eq, bitAt_definedXer _ p (by omega) (.inl ⟨lo, hi⟩)]

/-- Where reserved bits read 0 none is held. -/
theorem bitAt_readXer_35_of_inv (hs : s.inv = true) : bitAt s.readXer 35 = bitAt s.xer 35 := by
  obtain ⟨-, -, -, -, -, clear⟩ := s.inv_iff.mp hs
  rw [bitAt_readXer_35]
  cases reads : s.params.reservedReads with
  | lastWritten => exact Bool.and_true _
  | zero =>
    have none_held : s.xer &&& ~~~xerDefined = 0 := by
      simp only [State.reservedClear, reads, bne_self_eq_false, Bool.false_or, Bool.and_eq_true, beq_iff_eq] at clear
      exact clear.1
    have bit : bitAt (s.xer &&& ~~~xerDefined) 35 = false := none_held ▸ bitAt_zero 64 35
    rw [bitAt_and, bitAt_not _ _ (by omega), bitAt_xerDefined 35 (by omega)] at bit
    simpa using bit.symm

theorem completesWith_mcrxr (facility : s.params.hasMcrxr = true) :
    completesWith (exec (.mcrxr bf) s) s { cr := [bf], xer := [32, 33, 34, 35] } (fun t =>
      t.crField bf = fld s.readXer 32 4 ∧ t.xer = setFld s.xer 32 (0 : BitVec 4)) := by
  show completesWith (execMcrxr bf s) s _ _
  rw [execMcrxr, facility_check facility]
  refine completesWith_registers rfl (((Leaves.refl _ s).setCrField bf _ (List.mem_singleton.mpr rfl)).setXer _ ?_) rfl
    ⟨State.crField_setCrField_self s bf _, rfl⟩
  intro p hp other
  simp only [List.mem_cons, List.not_mem_nil, or_false, not_or] at other
  rw [bitAt_setFld _ _ _ _ (by omega) hp, if_neg (by omega)]
  rfl

end

/-- Settles O36: the moves of selected fields, then those of a facility, whose masks of other than one field leave undefined
values. -/
theorem moveConditionRegister : Obligations.MoveConditionRegister := by
  intro s r fxm bf moved every
  refine ⟨?mtcrf, ?mfcr, fun facility n selected => ⟨?mtocrf, ?mfocrf⟩,
    fun facility => ⟨completesWith_mtocrf facility, ?undefined⟩, fun facility => ?mcrxr⟩
  case mtcrf => exact completesWith_moveFields s fxm _ fun f other => absurd (mem_everyField f) other
  case mfcr =>
    refine completesWith_setGpr s r _ ?_
    rw [advance_readGpr, State.readGpr_setGpr_self]
    exact BitVec.toNat_setWidth_of_le (by omega)
  case mtocrf =>
    rw [exec_mtocrf_of_one facility (oneField_of_selected selected)]
    exact completesWith_moveFields s fxm _ fun f other => by rw [selected, decide_eq_false (by simpa using other)]
  case mfocrf =>
    refine (completesWith_mfocrf facility).mono fun t result => ?_
    rw [result, fld_ocrfValue (oneField_of_selected selected) (by simp [selected])]
  case undefined => exact (completesWith_mfocrf facility).mono fun _ _ => trivial
  case mcrxr =>
    refine (completesWith_mcrxr facility).mono fun t ⟨field, xer⟩ => ?_
    have moved_bit {k : Nat} (hk : k < 4) : bitAt (t.crField bf) k = bitAt s.readXer (32 + k) := by
      rw [field, bitAt_fld _ _ _ _ (by omega) hk]
    refine ⟨(moved_bit (by omega)).trans (bitAt_readXer_defined (by omega) (by omega)),
      (moved_bit (by omega)).trans (bitAt_readXer_defined (by omega) (by omega)),
      (moved_bit (by omega)).trans (bitAt_readXer_defined (by omega) (by omega)),
      fun hs => (moved_bit (by omega)).trans (bitAt_readXer_35_of_inv hs), (moved_bit (by omega)).trans bitAt_readXer_35,
      fun p lo hi => ?cleared⟩
    rw [xer, bitAt_setFld _ _ _ _ (by omega) (by omega), if_pos (by omega)]
    exact bitAt_zero 4 _

end Sys2Proof.Machine
end

section
/-! The floating-point loads, stores and moves, and select: what they deliver, and the single format of a word loaded in double
format (R620 to R648, R709). -/
namespace Sys2Proof.Machine

/-! ### Loads (R620 to R629) -/

/-- Values with the same `n` low-order bytes have the same `8 * n` low-order bits. -/
theorem setWidth_eq_of_byteOf {a b : DWord} {n : Nat} (same : ∀ i < n, byteOf a n i = byteOf b n i) :
    a.setWidth (8 * n) = b.setWidth (8 * n) := by
  apply BitVec.eq_of_getLsbD_eq
  intro k hk
  have byte := congrArg (BitVec.getLsbD · (k % 8)) (same (n - 1 - k / 8) (by omega))
  have place : 8 * (n - 1 - (n - 1 - k / 8)) + k % 8 = k := by omega
  simp only [byteOf_getLsbD _ _ _ _ (Nat.mod_lt k (by omega : 0 < 8)), place] at byte
  simp only [BitVec.getLsbD_setWidth, byte]

/-- The word that is loaded is the one that storage holds. -/
theorem loWord_loadValue {s : State} {ea : DWord} {w : Word} (h : holdsBytes (w.setWidth 64) ea 4 s) :
    loWord (s.loadValue ea 4) = w := by
  have bytes : (s.loadValue ea 4).setWidth (8 * 4) = (w.setWidth 64).setWidth (8 * 4) :=
    setWidth_eq_of_byteOf fun i hi => (s.byteOf_loadValue ea 4 i (by omega) hi).trans (h i hi)
  exact bytes.trans (BitVec.setWidth_setWidth_of_le w (by omega))

section
variable {s : State} {frt ra : Reg} {ea : DWord} {n : Nat} {v : DWord} {single : Bool}

theorem completesWith_loadFpr (h : accessible .load ea n s) :
    completesWith (fpAccess .load ea n (s.setFpr frt v single) s) s { fprs := [frt] }
      (fun t => t.readFpr frt = v ∧ t.isSingle frt = single) := by
  rw [fpAccess, guarded_none (accessFault_of_accessible h)]
  exact completesWith_registers rfl ((Leaves.refl _ s).setFpr frt v single (List.mem_singleton.mpr rfl)) rfl
    ⟨State.readFpr_setFpr_self s frt v single, State.isSingle_setFpr_self s frt v single⟩

theorem completesWith_loadFprUpdate (h0 : ra ≠ 0) (h : accessible .load ea n s) :
    completesWith (fpAccessUpdate .load ra ea n (s.setFpr frt v single) s) s { fprs := [frt], gprs := [ra] }
      (fun t => t.readFpr frt = v ∧ t.isSingle frt = single ∧ t.readGpr ra = ea) := by
  rw [fpAccessUpdate, if_neg (by simp [badUpdate_eq_false h0]), guarded_none (accessFault_of_accessible h)]
  exact completesWith_registers rfl
    (((Leaves.refl _ s).setFpr frt v single (List.mem_singleton.mpr rfl)).setGpr ra ea (List.mem_singleton.mpr rfl)) rfl
    ⟨State.readFpr_setFpr_self s frt v single, State.isSingle_setFpr_self s frt v single, State.readGpr_setGpr_self _ ra ea⟩

theorem loadsSingle_withSingle :
    loadsSingle (fpAccess .load ea 4 (s.withSingle frt ea) s) { fprs := [frt] } frt ea (fun _ => True) s := fun h =>
  (completesWith_loadFpr h).mono fun _ ⟨loaded, mark⟩ => ⟨fun _ holds => loWord_loadValue holds ▸ loaded, mark, trivial⟩

theorem loadsSingle_withSingle_update (h0 : ra ≠ 0) : loadsSingle (fpAccessUpdate .load ra ea 4 (s.withSingle frt ea) s)
    { fprs := [frt], gprs := [ra] } frt ea (fun t => t.readGpr ra = ea) s := fun h =>
  (completesWith_loadFprUpdate h0 h).mono fun _ ⟨loaded, mark, updated⟩ =>
    ⟨fun _ holds => loWord_loadValue holds ▸ loaded, mark, updated⟩

theorem loadsDouble_withDouble :
    loadsDouble (fpAccess .load ea 8 (s.withDouble frt ea) s) { fprs := [frt] } frt ea (fun _ => True) s := fun h =>
  (completesWith_loadFpr h).mono fun _ ⟨loaded, mark⟩ => ⟨loaded ▸ bytesOf_loaded s ea 8 (by omega), mark, trivial⟩

theorem loadsDouble_withDouble_update (h0 : ra ≠ 0) : loadsDouble (fpAccessUpdate .load ra ea 8 (s.withDouble frt ea) s)
    { fprs := [frt], gprs := [ra] } frt ea (fun t => t.readGpr ra = ea) s := fun h =>
  (completesWith_loadFprUpdate h0 h).mono fun _ ⟨loaded, mark, updated⟩ =>
    ⟨loaded ▸ bytesOf_loaded s ea 8 (by omega), mark, updated⟩

end

/-- Settles O38: each instruction loads a word or a doubleword, and with update writes RA, a general register, besides. -/
theorem floatingPointLoads : Obligations.FloatingPointLoads := by
  intro s f ra rb d ea ex
  exact ⟨loadsSingle_withSingle, loadsSingle_withSingle, loadsDouble_withDouble, loadsDouble_withDouble, fun h0 =>
    ⟨loadsSingle_withSingle_update h0, loadsSingle_withSingle_update h0, loadsDouble_withDouble_update h0,
      loadsDouble_withDouble_update h0⟩⟩

/-! ### Stores (R630 to R640) -/

section
variable {s : State} {f ra : Reg} {ea v : DWord} {n k : Nat} (hn : n ≤ 8)
include hn

/-- A store, after which `k` free values count as drawn; it is in the canonical form of storage that the bytes are read back. -/
theorem completesWith_storeFpr (h : accessible .store ea n s) :
    completesWith (fpAccess .store ea n ((s.storeValue ea n v).drew k) s) s { bytes := s.operandAddrs ea n }
      (fun t => Memory.wf s.mem = true → holdsBytes v ea n t) := by
  rw [fpAccess, guarded_none (accessFault_of_accessible h)]
  exact completesWith_advance (((Leaves.refl _ s).storeValue ea n v fun _ ha => ha).drew k) (by simp)
    (fun a ha => State.mem_storeValue_modified.mpr (.inl ha)) (holdsBytes_storeValue hn)

theorem completesWith_storeFprUpdate (h0 : ra ≠ 0) (h : accessible .store ea n s) :
    completesWith (fpAccessUpdate .store ra ea n ((s.storeValue ea n v).drew k) s) s
      { gprs := [ra], bytes := s.operandAddrs ea n }
      (fun t => (Memory.wf s.mem = true → holdsBytes v ea n t) ∧ t.readGpr ra = ea) := by
  rw [fpAccessUpdate, if_neg (by simp [badUpdate_eq_false h0]), guarded_none (accessFault_of_accessible h)]
  exact completesWith_advance
    ((((Leaves.refl _ s).storeValue ea n v fun _ ha => ha).drew k).setGpr ra ea (List.mem_singleton.mpr rfl)) (by simp)
    (fun a ha => State.mem_storeValue_modified.mpr (.inl ha)) ⟨holdsBytes_storeValue hn, State.readGpr_setGpr_self _ ra ea⟩

theorem storesFpr_storeValue :
    storesFpr (fpAccess .store ea n (s.storeValue ea n v) s) [] v ea n (fun _ => True) s := fun hm h =>
  (completesWith_storeFpr (k := 0) hn h).mono fun _ stored => ⟨stored hm, trivial⟩

theorem storesFpr_storeValue_update (h0 : ra ≠ 0) :
    storesFpr (fpAccessUpdate .store ra ea n (s.storeValue ea n v) s) [ra] v ea n (fun t => t.readGpr ra = ea) s := fun hm h =>
  (completesWith_storeFprUpdate (k := 0) hn h0 h).mono fun _ ⟨stored, updated⟩ => ⟨stored hm, updated⟩

end

section
variable {s : State} {f ra : Reg} {ea : DWord}

/-- A single-precision store is that of a word, after which a free value counts as drawn if the word is undefined. -/
theorem State.storeSingle_eq (s : State) (f : Reg) (ea : DWord) : ∃ (v : DWord) (k : Nat),
    s.storeSingle f ea = (s.storeValue ea 4 v).drew k ∧
      (singleUndefined (s.readFpr f) = false → v = (singleOf (s.readFpr f)).setWidth 64) := by
  unfold State.storeSingle
  cases undefined : singleUndefined (s.readFpr f) with
  | true => exact ⟨s.free 0, 1, if_pos undefined, fun h => nomatch h⟩
  | false => exact ⟨zext64 (singleOf (s.readFpr f)), 0, if_neg (by simp [undefined]), fun _ => rfl⟩

theorem storesSingle_storeSingle :
    storesSingle (fpAccess .store ea 4 (s.storeSingle f ea) s) [] (s.readFpr f) ea (fun _ => True) s := by
  intro hm h
  obtain ⟨v, k, store, word⟩ := s.storeSingle_eq f ea
  rw [store]
  exact (completesWith_storeFpr (by omega) h).mono fun _ stored => ⟨fun defined => word defined ▸ stored hm, trivial⟩

theorem storesSingle_storeSingle_update (h0 : ra ≠ 0) : storesSingle (fpAccessUpdate .store ra ea 4 (s.storeSingle f ea) s)
    [ra] (s.readFpr f) ea (fun t => t.readGpr ra = ea) s := by
  intro hm h
  obtain ⟨v, k, store, word⟩ := s.storeSingle_eq f ea
  rw [store]
  exact (completesWith_storeFprUpdate (by omega) h0 h).mono fun _ ⟨stored, updated⟩ =>
    ⟨fun defined => word defined ▸ stored hm, updated⟩

end

/-- Settles O39: `stfiwx` stores the low-order word, or a free value of a single-precision product. -/
theorem floatingPointStores : Obligations.FloatingPointStores := by
  intro s f ra rb d ea ex x
  refine ⟨storesSingle_storeSingle, storesSingle_storeSingle, storesFpr_storeValue (by omega), storesFpr_storeValue (by omega),
    fun h0 => ⟨storesSingle_storeSingle_update h0, storesSingle_storeSingle_update h0,
      storesFpr_storeValue_update (by omega) h0, storesFpr_storeValue_update (by omega) h0⟩, fun double => ?word,
    fun single h => ?undefined⟩
  case word =>
    show storesFpr (execStfiwx f ra rb s) _ _ _ _ _ _
    rw [execStfiwx, if_neg (by simp [double])]
    exact storesFpr_storeValue (by omega)
  case undefined =>
    show completesWith (execStfiwx f ra rb s) _ _ _
    rw [execStfiwx, if_pos single]
    exact (completesWith_storeFpr (by omega) h).mono fun _ _ => trivial

/-! ### The double format of a word and back (R621, R631) -/

theorem toNat_append_eq_add {m n : Nat} (x : BitVec m) (y : BitVec n) : (x ++ y).toNat = x.toNat * 2 ^ n + y.toNat := by
  rw [BitVec.toNat_append, ← Nat.shiftLeft_add_eq_or_of_lt y.isLt, Nat.shiftLeft_eq]

theorem fld_one {w : Nat} (x : BitVec w) {p : Nat} (hp : p < w) : fld x p 1 = bit (bitAt x p) := by
  apply eq_of_bitAt
  intro q hq
  rw [bitAt_fld _ _ _ _ (by omega) hq, show q = 0 by omega, Nat.add_zero]
  cases bitAt x p <;> rfl

/-- A field as a number, `k` bits standing to its right. -/
theorem toNat_fld {w : Nat} (x : BitVec w) (p n k : Nat) (h : w - p - n = k) : (fld x p n).toNat = x.toNat / 2 ^ k % 2 ^ n := by
  rw [fld, BitVec.extractLsb'_toNat, Nat.shiftRight_eq_div_pow, h]

/-- A word with three copies of `b` after its two leading bits and zeros on its right: its double format, unless it is a
denormalized number. -/
def widened (w : Word) (b : BitVec 1) : DWord := fld w 0 2 ++ b ++ b ++ b ++ fld w 2 30 ++ 0#29

section
variable (w : Word) (b : BitVec 1)

theorem toNat_word_parts : w.toNat = (fld w 0 2).toNat * 2 ^ 30 + (fld w 2 30).toNat := by
  have bound := w.isLt
  rw [toNat_fld w 0 2 30 rfl, toNat_fld w 2 30 0 rfl]
  omega

theorem toNat_widened :
    (widened w b).toNat = (fld w 0 2).toNat * 2 ^ 62 + b.toNat * 7 * 2 ^ 59 + (fld w 2 30).toNat * 2 ^ 29 := by
  simp only [widened, toNat_append_eq_add, BitVec.toNat_zero]
  ring

/-- Taking the copies out again. -/
theorem narrowed_widened : fld (widened w b) 0 2 ++ fld (widened w b) 5 30 = w := by
  have lead := (fld w 0 2).isLt
  have rest := (fld w 2 30).isLt
  have copies := b.isLt
  have first : (fld (widened w b) 0 2).toNat = (fld w 0 2).toNat := by
    have below : b.toNat * 7 * 2 ^ 59 + (fld w 2 30).toNat * 2 ^ 29 < 2 ^ 62 := by omega
    rw [toNat_fld _ 0 2 62 rfl, toNat_widened, Nat.add_assoc, Nat.add_comm, Nat.add_mul_div_right _ _ (Nat.two_pow_pos 62),
      Nat.div_eq_of_lt below, Nat.zero_add, Nat.mod_eq_of_lt lead]
  have last : (fld (widened w b) 5 30).toNat = (fld w 2 30).toNat := by
    rw [toNat_fld _ 5 30 29 rfl, toNat_widened]
    omega
  apply BitVec.eq_of_toNat_eq
  rw [toNat_append_eq_add, first, last, toNat_word_parts w]

variable {w b}

theorem round_trip_widened (h : 896 < expOf (widened w b) ∨ isZero (widened w b) = true) :
    singleUndefined (widened w b) = false ∧ singleOf (widened w b) = w := by
  constructor
  · rw [singleUndefined, Bool.and_eq_false_iff, decide_eq_false_iff_not, Bool.not_eq_false']
    exact h.imp (fun large => by omega) id
  · rw [singleOf, if_pos (by simpa using h), narrowed_widened]

/-- The exponent of a word is a bit `top` and a `rest`, between which the copies of `b` are put in; the fraction gets zeros on its
right. -/
theorem widened_parts : ∃ top rest : Nat, top < 2 ∧ rest < 2 ^ 7 ∧
    (fld w 1 1).toNat = top ∧ (~~~fld w 1 1).toNat = 1 - top ∧ (fld w 1 8).toNat = top * 2 ^ 7 + rest ∧
    expOf (widened w b) = top * 2 ^ 10 + b.toNat * 7 * 2 ^ 7 + rest ∧ fracOf (widened w b) = (fld w 9 23).toNat * 2 ^ 29 := by
  have lead := (fld w 0 2).isLt
  have low := (fld w 2 30).isLt
  have copies := b.isLt
  have parts := toNat_word_parts w
  have inverse : (~~~fld w 1 1).toNat = 2 ^ 1 - 1 - (fld w 1 1).toNat := BitVec.toNat_not
  rw [toNat_fld w 1 1 30 rfl] at inverse
  refine ⟨w.toNat / 2 ^ 30 % 2, w.toNat / 2 ^ 23 % 2 ^ 7, by omega, by omega, toNat_fld w 1 1 30 rfl, by omega, ?_, ?_, ?_⟩
  · rw [toNat_fld w 1 8 23 rfl]
    omega
  · rw [expOf_eq, toNat_widened]
    omega
  · rw [fracOf_eq, toNat_widened, toNat_fld w 9 23 0 rfl]
    omega

end

theorem expOf_widened_normal {w : Word} (nonzero : fld w 1 8 ≠ 0) : 896 < expOf (widened w (~~~fld w 1 1)) := by
  obtain ⟨top, rest, htop, -, -, inverse, exponent, wide, -⟩ := widened_parts (w := w) (b := ~~~fld w 1 1)
  have positive : (fld w 1 8).toNat ≠ 0 := fun h => nonzero (BitVec.eq_of_toNat_eq h)
  rw [wide, inverse]
  omega

theorem expOf_widened_maximal {w : Word} (maximal : fld w 1 8 = 255) : 896 < expOf (widened w (fld w 1 1)) := by
  obtain ⟨top, rest, htop, hrest, copies, -, exponent, wide, -⟩ := widened_parts (w := w) (b := fld w 1 1)
  rw [maximal, show (255 : BitVec 8).toNat = 255 from rfl] at exponent
  rw [wide, copies]
  omega

theorem isZero_widened {w : Word} (exponent : fld w 1 8 = 0) (fraction : fld w 9 23 = 0) :
    isZero (widened w (fld w 1 1)) = true := by
  obtain ⟨top, rest, -, -, copies, -, narrow, wide, frac⟩ := widened_parts (w := w) (b := fld w 1 1)
  rw [exponent, show (0 : BitVec 8).toNat = 0 from rfl] at narrow
  rw [fraction, show (0 : BitVec 23).toNat = 0 from rfl] at frac
  rw [isZero, Bool.and_eq_true, beq_iff_eq, beq_iff_eq, wide, frac, copies]
  omega

/-- A denormalized number of the single format is a normalized double whose significand is the fraction with its leading bit in
place 52. -/
theorem encode64_single_denormal (neg : Bool) {n : Nat} (nonzero : n ≠ 0) (bits : n < 2 ^ 23) :
    n.log2 < 23 ∧ signOf (encode64 neg n (-149)) = neg ∧ expOf (encode64 neg n (-149)) = n.log2 + 874 ∧
      2 ^ 52 + fracOf (encode64 neg n (-149)) = n * 2 ^ (52 - n.log2) := by
  have place : n.log2 < 23 := (Nat.log2_lt nonzero).mpr bits
  have shifted : scaleNat n (52 - (n.log2 : Int)) = n * 2 ^ (52 - n.log2) := by
    rw [scaleNat, if_pos (by omega), show (52 - (n.log2 : Int)).toNat = 52 - n.log2 by omega]
  have pattern : encode64 neg n (-149) =
      bit neg ++ BitVec.ofNat 11 (n.log2 + 874) ++ BitVec.ofNat 52 (n * 2 ^ (52 - n.log2)) := by
    have exponent : ((n.log2 : Int) + -149 + 1023).toNat = n.log2 + 874 := by omega
    rw [← shifted, ← exponent]
    exact (if_neg nonzero).trans (if_pos (by omega))
  have lower : 2 ^ (n.log2 + (52 - n.log2)) ≤ n * 2 ^ (52 - n.log2) := by
    rw [pow_add]
    exact Nat.mul_le_mul_right _ (Nat.log2_self_le nonzero)
  have upper : n * 2 ^ (52 - n.log2) < 2 ^ (n.log2 + 1 + (52 - n.log2)) := by
    rw [pow_add]
    exact Nat.mul_lt_mul_of_pos_right Nat.lt_log2_self (Nat.two_pow_pos _)
  rw [show n.log2 + (52 - n.log2) = 52 by omega] at lower
  rw [show n.log2 + 1 + (52 - n.log2) = 53 by omega] at upper
  refine ⟨place, signOf_encode64 neg n (-149), ?_, ?_⟩
  · rw [pattern, expOf_append_parts, BitVec.toNat_ofNat, Nat.mod_eq_of_lt (by omega)]
  · rw [pattern, fracOf_append_parts, BitVec.toNat_ofNat]
    omega

/-- The significand shifted back is the fraction. -/
theorem fraction_shifted_back {n l significand : Nat} (bits : n < 2 ^ 23) (place : l < 23)
    (normalized : significand = n * 2 ^ (52 - l)) : significand * 2 ^ 11 / 2 ^ (23 - l) / 2 ^ 40 % 2 ^ 23 = n := by
  have shift : 2 ^ (52 - l) * 2 ^ 11 = 2 ^ (23 - l) * 2 ^ 40 := by
    rw [← pow_add, ← pow_add]
    congr 1
    omega
  rw [normalized, Nat.mul_assoc, shift, Nat.div_div_eq_div_mul, Nat.mul_div_cancel _ (by positivity), Nat.mod_eq_of_lt bits]

/-- A word is its sign, exponent and fraction. -/
theorem word_eq_append (w : Word) : w = fld w 0 1 ++ fld w 1 8 ++ fld w 9 23 := by
  have bound := w.isLt
  apply BitVec.eq_of_toNat_eq
  rw [toNat_append_eq_add, toNat_append_eq_add, toNat_fld w 0 1 31 rfl, toNat_fld w 1 8 23 rfl, toNat_fld w 9 23 0 rfl]
  omega

theorem round_trip_denormal {w : Word} (exponent : fld w 1 8 = 0) (fraction : fld w 9 23 ≠ 0) :
    singleUndefined (encode64 (bitAt w 0) (fld w 9 23).toNat (-149)) = false ∧
      singleOf (encode64 (bitAt w 0) (fld w 9 23).toNat (-149)) = w := by
  have nonzero : (fld w 9 23).toNat ≠ 0 := fun h => fraction (BitVec.eq_of_toNat_eq h)
  obtain ⟨place, sign, exp, frac⟩ := encode64_single_denormal (bitAt w 0) nonzero (fld w 9 23).isLt
  generalize encode64 (bitAt w 0) (fld w 9 23).toNat (-149) = x at sign exp frac ⊢
  have normal : isZero x = false := by
    rw [isZero, Bool.and_eq_false_iff, beq_eq_false_iff_ne]
    exact .inl (by omega)
  have significand : (1#1 ++ fld x 12 52 ++ 0#11 : BitVec 64).toNat = (2 ^ 52 + fracOf x) * 2 ^ 11 := by
    rw [toNat_append_eq_add, toNat_append_eq_add]
    show (1 * 2 ^ 52 + fracOf x) * 2 ^ 11 + 0 = _
    rw [Nat.one_mul, Nat.add_zero]
  have restored : fld ((1#1 ++ fld x 12 52 ++ 0#11 : BitVec 64) >>> (897 - expOf x)) 1 23 = fld w 9 23 := by
    apply BitVec.eq_of_toNat_eq
    rw [toNat_fld _ 1 23 40 rfl, toNat_ushiftRight_eq_div, significand, exp,
      show 897 - ((fld w 9 23).toNat.log2 + 874) = 23 - (fld w 9 23).toNat.log2 by omega]
    exact fraction_shifted_back (fld w 9 23).isLt place frac
  constructor
  · rw [singleUndefined, Bool.and_eq_false_iff, decide_eq_false_iff_not]
    exact .inl (by omega)
  · rw [singleOf, if_neg (by simp [normal]; omega)]
    dsimp only
    have parts := word_eq_append w
    rw [exponent] at parts
    rw [restored, fld_one x (by omega), show bitAt x 0 = bitAt w 0 from sign, ← fld_one w (by omega)]
    exact parts.symm

section
variable {w : Word}

theorem doubleOf_normal (h : fld w 1 8 ≠ 0 ∧ fld w 1 8 ≠ 255) : doubleOf w = widened w (~~~fld w 1 1) := if_pos h

theorem doubleOf_denormal (exponent : fld w 1 8 = 0) (fraction : fld w 9 23 ≠ 0) :
    doubleOf w = encode64 (bitAt w 0) (fld w 9 23).toNat (-149) :=
  (if_neg fun h => h.1 exponent).trans (if_pos ⟨exponent, fraction⟩)

theorem doubleOf_zero (exponent : fld w 1 8 = 0) (fraction : fld w 9 23 = 0) : doubleOf w = widened w (fld w 1 1) :=
  (if_neg fun h => h.1 exponent).trans (if_neg fun h => h.2 fraction)

theorem doubleOf_maximal (maximal : fld w 1 8 = 255) : doubleOf w = widened w (fld w 1 1) :=
  (if_neg fun h => h.2 maximal).trans (if_neg fun h => absurd (maximal.symm.trans h.1) (by decide))

end

/-- Settles O40: the double format of a denormalized number is normalized, that of any other word keeps its bits. -/
theorem singleFormatRoundTrip : Obligations.SingleFormatRoundTrip := by
  intro w
  by_cases exponent : fld w 1 8 = 0
  · by_cases fraction : fld w 9 23 = 0
    · rw [doubleOf_zero exponent fraction]
      exact round_trip_widened (.inr (isZero_widened exponent fraction))
    · rw [doubleOf_denormal exponent fraction]
      exact round_trip_denormal exponent fraction
  · by_cases maximal : fld w 1 8 = 255
    · rw [doubleOf_maximal maximal]
      exact round_trip_widened (.inl (expOf_widened_maximal maximal))
    · rw [doubleOf_normal ⟨exponent, maximal⟩]
      exact round_trip_widened (.inl (expOf_widened_normal exponent))

/-! ### Moves and select (R644 to R648, R709) -/

theorem bitAt_withSign (neg : Bool) (x : DWord) {p : Nat} (hp : p < 64) :
    bitAt (withSign neg x) p = if p = 0 then neg else bitAt x p := bitAt_setBitAt x 0 neg p (by omega) hp

/-- The instruction copies `x` into `f` but for its sign, `single` being the mark of a single-precision value. -/
def copiesWithSign (out : Out) (f : Reg) (rc sign : Bool) (x : DWord) (single : Bool) (s : State) : Prop :=
  completesWith out s { fprs := [f], cr := fpRecordField rc } (fun t =>
    bitAt (t.readFpr f) 0 = sign ∧ (∀ p : Nat, 0 < p → p < 64 → bitAt (t.readFpr f) p = bitAt x p) ∧
      t.isSingle f = single ∧ (rc = true → t.crField 1 = fld (summarized s.fpscr) 0 4))

section
variable (s : State) (f : Reg) (rc : Bool)

theorem completesWith_setFpr (v : DWord) (single : Bool) :
    completesWith (.next (advance ((s.setFpr f v single).setCr1If rc))) s { fprs := [f], cr := fpRecordField rc } (fun t =>
      t.readFpr f = v ∧ t.isSingle f = single ∧ (rc = true → t.crField 1 = fld (summarized s.fpscr) 0 4)) :=
  completesWith_registers rfl (((Leaves.refl _ s).setFpr f v single (List.mem_singleton.mpr rfl)).setCr1If rc
    (one_mem_fpRecordField rc)) (by simp) ⟨by simp, by simp, State.crField_setCr1If (s.setFpr f v single) rc⟩

theorem copiesWithSign_withSign (sign : Bool) (x : DWord) (single : Bool) :
    copiesWithSign (.next (advance ((s.setFpr f (withSign sign x) single).setCr1If rc))) f rc sign x single s :=
  (completesWith_setFpr s f rc (withSign sign x) single).mono fun _ ⟨copied, mark, record⟩ =>
    ⟨by rw [copied, bitAt_withSign sign x (by omega), if_pos rfl],
      fun p hp hp' => by rw [copied, bitAt_withSign sign x hp', if_neg (by omega)], mark, record⟩

theorem copiesWithSign_self (x : DWord) (single : Bool) :
    copiesWithSign (.next (advance ((s.setFpr f x single).setCr1If rc))) f rc (bitAt x 0) x single s :=
  (completesWith_setFpr s f rc x single).mono fun _ ⟨copied, mark, record⟩ =>
    ⟨by rw [copied], fun p _ _ => by rw [copied], mark, record⟩

end

theorem scaledMagnitude_eq_zero_iff (n : Nat) : scaledMagnitude n = 0 ↔ n = 0 :=
  scaledMagnitude_strictMono.injective.eq_iff (b := 0)

theorem signed_nonneg_iff (neg : Bool) (n : Nat) : 0 ≤ signed neg n ↔ n = 0 ∨ neg = false := by
  cases neg <;> simp [signed]

/-- A number is not below zero when its magnitude or its sign bit is 0. -/
theorem scaledValue_nonneg_iff (a : DWord) : 0 ≤ scaledValue a ↔ fld a 1 63 = 0 ∨ bitAt a 0 = false := by
  have magnitude : (fld a 1 63).toNat = a.toNat % 2 ^ 63 := by
    rw [toNat_fld a 1 63 0 rfl]
    omega
  have zero : (fld a 1 63).toNat = 0 ↔ fld a 1 63 = 0 := BitVec.toNat_inj (y := 0)
  rw [scaledValue_eq_signed, signed_nonneg_iff, scaledAbs_eq_scaledMagnitude, scaledMagnitude_eq_zero_iff, ← magnitude, zero]
  rfl

theorem isNaN_eq_fields (a : DWord) : isNaN a = (fld a 1 11 == 0x7FF#11 && fld a 12 52 != 0) := by
  have exponent : fld a 1 11 = 0x7FF#11 ↔ expOf a = 2047 := BitVec.toNat_inj.symm
  have fraction : fld a 12 52 = 0 ↔ fracOf a = 0 := BitVec.toNat_inj.symm
  rw [Bool.eq_iff_iff, isNaN, Bool.and_eq_true, Bool.and_eq_true, beq_iff_eq, beq_iff_eq, bne_iff_ne, bne_iff_ne, exponent, ne_eq,
    ne_eq, fraction]

theorem geZero_iff (a : DWord) : geZero a = true ↔ isNaN a = false ∧ 0 ≤ scaledValue a := by
  have fields : geZero a = (!isNaN a && (fld a 1 63 == 0 || !bitAt a 0)) := by
    rw [isNaN_eq_fields]
    rfl
  rw [fields, scaledValue_nonneg_iff, Bool.and_eq_true, Bool.or_eq_true, Bool.not_eq_true', Bool.not_eq_true', beq_iff_eq]

/-- Settles O41: a move sets the sign bit that it is given, and `fsel` tests FRA as a number. -/
theorem floatingPointMovesAndSelect : Obligations.FloatingPointMovesAndSelect := by
  intro s f a b c rc copies y
  refine ⟨copiesWithSign_self s f rc y _, copiesWithSign_withSign s f rc _ y _, copiesWithSign_withSign s f rc _ y _,
    copiesWithSign_withSign s f rc _ y _, fun facility => ?select, fun absent => ?illegal⟩
  case select =>
    show copiesWithSign (execFsel f a c b rc s) f rc _ _ false s
    simp only [execFsel, facility_check facility, geZero_iff]
    exact copiesWithSign_self s f rc _ false
  case illegal =>
    show raises (execFsel f a c b rc s) _ s
    rw [execFsel, absent]
    rfl

end Sys2Proof.Machine
end

section
/-! The step where an instruction runs, and the instructions that only go on to the next one (R785, R791, R836). -/
namespace Sys2Proof.Machine

theorem step_of_decoded {s : State} {bs rest : List Byte} {i : Instr} (h : s.outcome = none) (fetched : s.fetch = .bytes bs)
    (decoded : decode bs = .ok (i, rest)) : step s = exec i s := by
  simp only [step, h, fetched, decoded]
  rfl

/-- Settles O4: the fetch finds the four bytes, and the step runs what they decode to. -/
theorem stepRunsTheDecodedInstruction : Obligations.StepRunsTheDecodedInstruction := fun _ _ _ h may unmodified decoded =>
  step_of_decoded h (State.fetch_eq_bytes may unmodified) decoded

/-- Settles O59: each of the five is the advance to the next instruction (log 10). -/
theorem synchronizationAndCacheHints : Obligations.SynchronizationAndCacheHints := by
  intro s i hi
  have advances : exec i s = .next (advance s) := by
    simp only [List.mem_cons, List.not_mem_nil, or_false] at hi
    rcases hi with rfl | rfl | rfl | rfl | rfl <;> rfl
  rw [advances]
  exact completesWith_registers rfl (Leaves.refl _ s) rfl trivial

end Sys2Proof.Machine
end
